-- ==== Sys2Proof/Word.lean ====
section
/-! DEFINITION. The widths of the block's values (00_scope.md R11, 10_state.md R22, 30_encoding.md R100). -/

namespace Sys2Proof

/-- A byte of a frame, a buffer or a stream, and an 8-bit register. -/
abbrev Byte := BitVec 8

/-- A 16-bit register, and a value of the endianness adapter. -/
abbrev Half := BitVec 16

/-- A 32-bit register, and what a host read returns. -/
abbrev Word := BitVec 32

/-- One host transaction (R100). -/
abbrev HostWord := BitVec 64

end Sys2Proof
end

