-- ==== Sys2Proof/Syntax.lean ====
section
/-! DEFINITION. The instructions of spec/opcode_table.json, one constructor a row. No instruction has an immediate:
every operand is the current value of an operand register, a buffer range or session state (R97). -/

namespace Sys2Proof

/-- The rows of the opcode table. The first seven are the wire instructions (R86): as an instruction of the block each
is the transaction that sends its request and takes its response (log 8). The other eighteen are the commands (R95). -/
inductive Instr where
  | ping
  | read
  | write
  | bwrite
  | btrigger
  | syncread
  | syncwrite
  | nop
  | cksum
  | encode
  | decode
  | send
  | flushRx
  | recv
  | xact
  | srBegin
  | srXfer
  | srExtract
  | srNextByte
  | srNextWord
  | srEnd
  | h2b
  | b2h
  | smDec
  | smEnc
deriving DecidableEq, Repr

end Sys2Proof
end

