-- ==== Sys2Proof/Transaction.lean ====
section
/-! DEFINITION. The names that are not instructions: registers, buffers, wire operations, host transactions, and the
lines of a host program (R22, R47 to R51, R86, R100, R105, R106). -/

namespace Sys2Proof

/-- The 24 registers, in the order of their numbers (R22). -/
inductive Reg where
  | cmd | ctrl | err | esub | status | flags | rspAddr
  | aAddr | aInstr | aReg | aLen | aCnt | aIdx | aSbit | aWord | aVal
  | result | txlen | rxlen | srN | srL | srSize | srRawlen | srCur
deriving DecidableEq, Repr

/-- The five byte buffers (R47 to R51). -/
inductive Buf where
  | hbuf | txbuf | rxbuf | srbuf | pkt
deriving DecidableEq, Repr

/-- The SPACE field of a host transaction (R100). -/
inductive Space where
  | reg
  | buf (b : Buf)
deriving DecidableEq, Repr

/-- The seven wire operations (R86), the closed enumeration that `A_INSTR` selects from. -/
inductive WireOp where
  | ping | read | write | bwrite | btrigger | syncread | syncwrite
deriving DecidableEq, Repr

/-- A host transaction the block may accept (R101). A write to `CMD` is a `regWrite .cmd`. -/
inductive HostTxn where
  | regWrite (r : Reg) (value : Word)
  | regRead (r : Reg)
  | bufWrite (index : Half) (value : Byte)
  | bufRead (b : Buf) (index : Half)
deriving DecidableEq, Repr

/-- Why a host word is no transaction of the block: the clauses (a) to (i) of R103. -/
inductive Malformed where
  /-- (a) one of the bits 58:48 is set. -/
  | reservedBits
  /-- (a) SPACE is 6 or 7. -/
  | reservedSpace
  /-- (b) a register access outside REG, or a buffer access in REG. -/
  | spaceOfOtherKind
  /-- (c) a buffer write outside HBUF. -/
  | bufferNotWritable
  /-- (d) INDEX is not below the size of its space. -/
  | indexTooLarge
  /-- (e) a read whose VALUE is not 0. -/
  | readWithValue
  /-- (f) a write to a read-only register. -/
  | registerReadOnly
  /-- (g) a register write whose VALUE does not fit the register. -/
  | valueTooWide
  /-- (h) a buffer write whose VALUE is above 0xFF. -/
  | byteTooWide
  /-- (i) a write of CTRL or A_SBIT with a reserved bit set. -/
  | reservedField
deriving DecidableEq, Repr

/-- One line of a host program (R105) or a pseudo-instruction (R106). Values are as the line writes them, in up to 32
bits: whether the block takes them is for R103 to say. A record of `syncwrite` is its id and then its data bytes. -/
inductive AsmLine where
  | wr (r : Reg) (value : Word)
  | rd (r : Reg)
  | wb (index : Half) (value : Word)
  | rb (b : Buf) (index : Half)
  | cmd (i : Instr)
  | ping (a : Word)
  | read (a r n : Word)
  | write (a r : Word) (data : List Word)
  | bwrite (a r : Word) (data : List Word)
  | btrigger (a : Word)
  | syncwrite (r len : Word) (records : List (List Word))
  | srbegin (n len : Word)
  | srxfer (r : Word) (ids : List Word)
  | srextract (a : Word)
  | setend (e : Word)
deriving DecidableEq, Repr

/-- The marks of a line of host assembly (R105). -/
inductive AsmToken where
  | name (cs : List Char)
  | comma | openBracket | closeBracket | openBrace | closeBrace
deriving DecidableEq, Repr

end Sys2Proof
end

