-- ==== Sys2Proof/Machine/RegisterMap.lean ====
section
/-! DEFINITION. The register table of R22, the buffer sizes of R102, the SPACE codes of R100, and the wire codes of
R86, as tables that the decoder and the machine read. -/

namespace Sys2Proof

/-- The registers in the order of their numbers (R22). -/
def Reg.all : List Reg :=
  [.cmd, .ctrl, .err, .esub, .status, .flags, .rspAddr, .aAddr, .aInstr, .aReg, .aLen, .aCnt] ++
  [.aIdx, .aSbit, .aWord, .aVal, .result, .txlen, .rxlen, .srN, .srL, .srSize, .srRawlen, .srCur]

/-- The number of a register (R22). -/
def Reg.number : Reg → Nat
  | .cmd => 0 | .ctrl => 1 | .err => 2 | .esub => 3 | .status => 4 | .flags => 5 | .rspAddr => 6
  | .aAddr => 7 | .aInstr => 8 | .aReg => 9 | .aLen => 10 | .aCnt => 11 | .aIdx => 12 | .aSbit => 13
  | .aWord => 14 | .aVal => 15 | .result => 16 | .txlen => 17 | .rxlen => 18 | .srN => 19 | .srL => 20
  | .srSize => 21 | .srRawlen => 22 | .srCur => 23

/-- The register with a number; none from 24 on (R22). -/
def Reg.ofNumber? (n : Nat) : Option Reg := Reg.all[n]?

/-- The width of a register in bits (R22). -/
def Reg.width : Reg → Nat
  | .aWord | .srSize | .srRawlen => 16
  | .aVal | .result => 32
  | _ => 8

/-- Whether the host may write the register: all but the numbers 2 to 6 and 16 to 23 (R22, R103 (f)). -/
def Reg.writable : Reg → Bool
  | .cmd | .ctrl | .aAddr | .aInstr | .aReg | .aLen | .aCnt | .aIdx | .aSbit | .aWord | .aVal => true
  | _ => false

/-- The bits a host write may not set: CTRL 7:1 and A_SBIT 6:4 (R24, R36, R103 (i)). -/
def Reg.reservedMask : Reg → Nat
  | .ctrl => 0xFE
  | .aSbit => 0x70
  | _ => 0

/-- The size of a buffer in bytes, for a given `SR_BUF_CAP` (R10, R102). -/
def Buf.size (cap : Nat) : Buf → Nat
  | .hbuf => 256
  | .txbuf => 255
  | .rxbuf => 255
  | .srbuf => cap
  | .pkt => 249

/-- The SPACE code (R100). -/
def Space.code : Space → Nat
  | .reg => 0
  | .buf .hbuf => 1
  | .buf .txbuf => 2
  | .buf .rxbuf => 3
  | .buf .srbuf => 4
  | .buf .pkt => 5

/-- The space of a SPACE code; 6 and 7 are reserved (R100). -/
def Space.ofCode? : Nat → Option Space
  | 0 => some .reg
  | 1 => some (.buf .hbuf)
  | 2 => some (.buf .txbuf)
  | 3 => some (.buf .rxbuf)
  | 4 => some (.buf .srbuf)
  | 5 => some (.buf .pkt)
  | _ => none

/-- The wire instruction code (R86). -/
def WireOp.code : WireOp → Byte
  | .ping => 0x01
  | .read => 0x02
  | .write => 0x03
  | .bwrite => 0x04
  | .btrigger => 0x05
  | .syncread => 0x82
  | .syncwrite => 0x83

/-- The wire operation with a code; every other value is none (R86, R93). -/
def WireOp.ofCode? (c : Byte) : Option WireOp :=
  if c = 0x01 then some .ping
  else if c = 0x02 then some .read
  else if c = 0x03 then some .write
  else if c = 0x04 then some .bwrite
  else if c = 0x05 then some .btrigger
  else if c = 0x82 then some .syncread
  else if c = 0x83 then some .syncwrite
  else none

/-- The instruction of the opcode table that stands for a wire operation (R86). -/
def WireOp.instr : WireOp → Instr
  | .ping => .ping
  | .read => .read
  | .write => .write
  | .bwrite => .bwrite
  | .btrigger => .btrigger
  | .syncread => .syncread
  | .syncwrite => .syncwrite

end Sys2Proof
end

