-- ==== Sys2Proof/WellFormed.lean ====
section
/-! DEFINITION. Which host transactions the block accepts: the clauses (d), (f), (g) and (i) of R103, which are the
ones a `HostTxn` can break (the other clauses are about words that stand for no `HostTxn`). An `Instr` has no operand,
so every one is well formed. -/

namespace Sys2Proof

/-- A host transaction that R103 does not refuse, for a given `SR_BUF_CAP`. -/
def HostTxn.wf (cap : Nat) : HostTxn → Bool
  | .regWrite r v => r.writable && decide (v.toNat < 2 ^ r.width) && decide (v.toNat &&& r.reservedMask = 0)
  | .regRead _ => true
  | .bufWrite i _ => decide (i.toNat < Buf.hbuf.size cap)
  | .bufRead b i => decide (i.toNat < b.size cap)

end Sys2Proof
end

