-- ==== Sys2Proof/Decode.lean ====
section
/-! DEFINITION. The decoder of the host word (R100 to R103) and of the opcode table's rows (R86, R95), total on every
word and rejecting by name, and after it the encoder, written from the same tables. -/

namespace Sys2Proof

/-- The command with a code (R95); every other code is illegal (R96). -/
def Instr.ofCommand? (c : Byte) : Option Instr :=
  match c.toNat with
  | 0x00 => some .nop
  | 0x01 => some .cksum
  | 0x02 => some .encode
  | 0x03 => some .decode
  | 0x04 => some .send
  | 0x05 => some .flushRx
  | 0x06 => some .recv
  | 0x07 => some .xact
  | 0x10 => some .srBegin
  | 0x11 => some .srXfer
  | 0x12 => some .srExtract
  | 0x13 => some .srNextByte
  | 0x14 => some .srNextWord
  | 0x15 => some .srEnd
  | 0x20 => some .h2b
  | 0x21 => some .b2h
  | 0x22 => some .smDec
  | 0x23 => some .smEnc
  | _ => none

/-- A register access of kind REGWR, once KIND and SPACE are read: clauses (d), (f), (g), (i) of R103. -/
def decodeRegWrite (index value : Nat) : Except Malformed HostTxn :=
  match Reg.ofNumber? index with
  | none => .error .indexTooLarge
  | some r =>
    if r.writable = false then .error .registerReadOnly
    else if 2 ^ r.width ≤ value then .error .valueTooWide
    else if value &&& r.reservedMask ≠ 0 then .error .reservedField
    else .ok (.regWrite r (BitVec.ofNat 32 value))

/-- A register access of kind REGRD: clauses (d) and (e) of R103. -/
def decodeRegRead (index value : Nat) : Except Malformed HostTxn :=
  match Reg.ofNumber? index with
  | none => .error .indexTooLarge
  | some r => if value ≠ 0 then .error .readWithValue else .ok (.regRead r)

/-- A buffer access of kind BUFWR: clauses (c), (d) and (h) of R103. -/
def decodeBufWrite (cap : Nat) (b : Buf) (index value : Nat) : Except Malformed HostTxn :=
  if b ≠ .hbuf then .error .bufferNotWritable
  else if b.size cap ≤ index then .error .indexTooLarge
  else if 0xFF < value then .error .byteTooWide
  else .ok (.bufWrite (BitVec.ofNat 16 index) (BitVec.ofNat 8 value))

/-- A buffer access of kind BUFRD: clauses (d) and (e) of R103. -/
def decodeBufRead (cap : Nat) (b : Buf) (index value : Nat) : Except Malformed HostTxn :=
  if b.size cap ≤ index then .error .indexTooLarge
  else if value ≠ 0 then .error .readWithValue
  else .ok (.bufRead b (BitVec.ofNat 16 index))

/-- The five fields of a host word (R100), once cut out. KIND is 0 REGWR, 1 REGRD, 2 BUFWR, 3 BUFRD. When several
clauses of R103 hold, the first in the order (a) to (i) that applies names the refusal (DESIGN CHOICE, log 10). -/
def decodeFields (cap kind space reserved index value : Nat) : Except Malformed HostTxn :=
  if reserved ≠ 0 then .error .reservedBits
  else
    match Space.ofCode? space with
    | none => .error .reservedSpace
    | some .reg =>
      if kind = 0 then decodeRegWrite index value
      else if kind = 1 then decodeRegRead index value
      else .error .spaceOfOtherKind
    | some (.buf b) =>
      if kind = 2 then decodeBufWrite cap b index value
      else if kind = 3 then decodeBufRead cap b index value
      else .error .spaceOfOtherKind

/-- The host word (R100): KIND 63:62, SPACE 61:59, reserved 58:48, INDEX 47:32, VALUE 31:0. -/
def decodeWord (cap : Nat) (w : HostWord) : Except Malformed HostTxn :=
  decodeFields cap (w.toNat / 2 ^ 62) (w.toNat / 2 ^ 59 % 8) (w.toNat / 2 ^ 48 % 2 ^ 11) (w.toNat / 2 ^ 32 % 2 ^ 16)
    (w.toNat % 2 ^ 32)

/-- The command a host word runs: a write of a listed code to `CMD` (R23, R95). -/
def decodeCommand? (w : HostWord) : Option Instr :=
  match decodeWord 0 w with
  | .ok (.regWrite .cmd v) => Instr.ofCommand? (v.setWidth 8)
  | _ => none

/-- The instruction of an opcode-table row: an 8-bit row is the INSTR byte of a wire frame (R86), every other is a
64-bit host word (R95). A row has no operand bits, so nothing stands above it. -/
def decodeTableWord (nbits w : Nat) : Option Instr :=
  if nbits = 8 then
    if w < 2 ^ 8 then (WireOp.ofCode? (BitVec.ofNat 8 w)).map WireOp.instr else none
  else
    if w < 2 ^ 64 then decodeCommand? (BitVec.ofNat 64 w) else none

/-- The command code (R95); the wire instructions are no commands. -/
def Instr.commandCode? : Instr → Option Byte
  | .ping | .read | .write | .bwrite | .btrigger | .syncread | .syncwrite => none
  | .nop => some 0x00
  | .cksum => some 0x01
  | .encode => some 0x02
  | .decode => some 0x03
  | .send => some 0x04
  | .flushRx => some 0x05
  | .recv => some 0x06
  | .xact => some 0x07
  | .srBegin => some 0x10
  | .srXfer => some 0x11
  | .srExtract => some 0x12
  | .srNextByte => some 0x13
  | .srNextWord => some 0x14
  | .srEnd => some 0x15
  | .h2b => some 0x20
  | .b2h => some 0x21
  | .smDec => some 0x22
  | .smEnc => some 0x23

/-- The wire operation an instruction stands for, for the seven wire instructions (R86). -/
def Instr.wireOp? : Instr → Option WireOp
  | .ping => some .ping
  | .read => some .read
  | .write => some .write
  | .bwrite => some .bwrite
  | .btrigger => some .btrigger
  | .syncread => some .syncread
  | .syncwrite => some .syncwrite
  | _ => none

/-- A host word from its fields (R100). -/
def packHostWord (kind space index value : Nat) : HostWord :=
  BitVec.ofNat 64 (kind * 2 ^ 62 + space * 2 ^ 59 + index * 2 ^ 32 + value)

/-- The host word of a transaction (R100, R101). -/
def encodeTxn : HostTxn → HostWord
  | .regWrite r v => packHostWord 0 Space.reg.code r.number v.toNat
  | .regRead r => packHostWord 1 Space.reg.code r.number 0
  | .bufWrite i v => packHostWord 2 (Space.buf .hbuf).code i.toNat v.toNat
  | .bufRead b i => packHostWord 3 (Space.buf b).code i.toNat 0

/-- The host word that runs a command code (R95). -/
def commandWord (c : Byte) : HostWord := encodeTxn (.regWrite .cmd (c.setWidth 32))

/-- The bits of an instruction as the opcode table gives them: how many, and their value. -/
def encode (i : Instr) : Nat × Nat :=
  match i.wireOp?, i.commandCode? with
  | some op, _ => (8, op.code.toNat)
  | none, some c => (64, (commandWord c).toNat)
  | none, none => (0, 0)

end Sys2Proof
end

