-- ==== Sys2Proof/Machine/Errors.lean ====
section
/-! DEFINITION. The error kinds and sub-causes a command can raise, and their codes (60_exceptions.md R250, R251). -/

namespace Sys2Proof.Machine

/-- The sub-causes of FRAMING (R251). -/
inductive FramingCause where
  | header | address | length | checksum | overrun | notFound | truncated
deriving DecidableEq, Repr

/-- The sub-causes of INVALID_PARAM (R251). -/
inductive ParamCause where
  | tooLong | broadcastRead | badCount | badIndex | notRepresentable | badInstr
deriving DecidableEq, Repr

/-- The sub-causes of SESSION (R251). -/
inductive SessionCause where
  | notActive | alreadyActive
deriving DecidableEq, Repr

/-- What a command can raise (R250). None of these stops the block (R15, R260). -/
inductive Cause where
  | timeout
  | framing (sub : FramingCause)
  | alloc
  | invalidParam (sub : ParamCause)
  | illegalCmd
  | session (sub : SessionCause)
  | exhausted
deriving DecidableEq, Repr

/-- The value of `ERR` (R250). -/
def Cause.code : Cause → Byte
  | .timeout => 0x01
  | .framing _ => 0x02
  | .alloc => 0x03
  | .invalidParam _ => 0x04
  | .illegalCmd => 0x05
  | .session _ => 0x06
  | .exhausted => 0x07

/-- The ESUB code of a FRAMING sub-cause (R251). -/
def FramingCause.code : FramingCause → Byte
  | .header => 0x01
  | .address => 0x02
  | .length => 0x03
  | .checksum => 0x04
  | .overrun => 0x05
  | .notFound => 0x06
  | .truncated => 0x07

/-- The ESUB code of an INVALID_PARAM sub-cause (R251). -/
def ParamCause.code : ParamCause → Byte
  | .tooLong => 0x01
  | .broadcastRead => 0x02
  | .badCount => 0x03
  | .badIndex => 0x04
  | .notRepresentable => 0x05
  | .badInstr => 0x06

/-- The ESUB code of a SESSION sub-cause (R251). -/
def SessionCause.code : SessionCause → Byte
  | .notActive => 0x01
  | .alreadyActive => 0x02

/-- The value of `ESUB`: 0x00 for an error that has no sub-cause (R251). -/
def Cause.sub : Cause → Byte
  | .framing f => f.code
  | .invalidParam p => p.code
  | .session s => s.code
  | .timeout | .alloc | .illegalCmd | .exhausted => 0x00

/-- The errors after which the response data is unspecified: TIMEOUT and FRAMING (R132, 92 D13). -/
def Cause.spoilsData : Cause → Bool
  | .timeout | .framing _ => true
  | .alloc | .invalidParam _ | .illegalCmd | .session _ | .exhausted => false

end Sys2Proof.Machine
end

