-- ==== Sys2Proof/Config.lean ====
section
/-! DEFINITION. What the spec leaves open: the one implementation parameter and the free values. Each is an opaque
constant without a body, so nothing can be proved of its value. -/

namespace Sys2Proof

/-- `SR_BUF_CAP`, the capacity in bytes of the sync-read raw buffer: OPEN, 0 to 65535 (R10, 92 D20). DESIGN CHOICE
(log 6): the State field of that name holds this value at reset, and statements hold for every value of the field. -/
opaque Config.srBufCap : Half

/-- The value of an unspecified byte, fresh at each number of the draw counter (R13, R104). DESIGN CHOICE (log 5). -/
opaque Config.freeByte : Nat → Byte

/-- The bytes the environment delivers during a `RxTake` for which the State lists no answer (R16, R54). DESIGN
CHOICE (log 3). -/
opaque Config.freeArrivals : Nat → List Byte

end Sys2Proof
end

