-- ==== Sys2Proof/Machine/State.lean ====
section
/-! DEFINITION. The state of the block and the reasons a step can stop (10_state.md, 70_reset_and_hazards.md). -/

namespace Sys2Proof.Machine

/-- A byte buffer: its specified bytes as (index, byte) pairs, indices strictly rising. An index that is not listed is
an unspecified byte (R13, R104, R281): no value stands for it (log 5). -/
abbrev Memory := List Host.Cell

/-- What comes from outside the block between its steps (R19, R20, R54). -/
inductive Input where
  /-- The host issues a host transaction. -/
  | transaction (w : HostWord)
  /-- The environment appends bytes to the receive queue. -/
  | arrival (bytes : List Byte)
deriving DecidableEq, Repr

/-- The machine faults. The block has none: "an error never stops the block" (R15, R260), so the type is empty. -/
inductive Fault where
deriving DecidableEq, Repr

/-- The reasons a step has no next state. -/
inductive Refusal where
  /-- Raised by an arm of `exec` for an instruction that has no meaning yet. No arm raises it. Safe. -/
  | notModelled (mnemonic : String)
  /-- Raised by a step whose host transaction R103 refuses, with the clause that refuses it: the spec gives the
  transaction no step, and the run stops there. Safe (R103: it "errs toward unprovable"). -/
  | hostTransaction (why : Malformed)
deriving DecidableEq, Repr

/-- Everything the spec gives the block, and after it the model's own fields. -/
structure State where
  /-- Register 0, `CMD` (R23). -/
  cmd : Byte
  /-- Register 1, `CTRL` (R24). -/
  ctrl : Byte
  /-- Register 2, `ERR` (R25). -/
  err : Byte
  /-- Register 3, `ESUB` (R26). -/
  esub : Byte
  /-- Register 4, `STATUS` (R27). -/
  status : Byte
  /-- `FLAGS.SV`, bit 0 of register 5: status valid (R28). -/
  sv : Bool
  /-- `FLAGS.SRA`, bit 1 of register 5: session active (R28). -/
  sra : Bool
  /-- `FLAGS.PV`, bit 2 of register 5: packet valid (R28). -/
  pv : Bool
  /-- Register 6, `RSP_ADDR` (R29). -/
  rspAddr : Byte
  /-- Register 7, `A_ADDR` (R30). -/
  aAddr : Byte
  /-- Register 8, `A_INSTR` (R31). -/
  aInstr : Byte
  /-- Register 9, `A_REG` (R32). -/
  aReg : Byte
  /-- Register 10, `A_LEN` (R33). -/
  aLen : Byte
  /-- Register 11, `A_CNT` (R34). -/
  aCnt : Byte
  /-- Register 12, `A_IDX` (R35). -/
  aIdx : Byte
  /-- Register 13, `A_SBIT` (R36). -/
  aSbit : Byte
  /-- Register 14, `A_WORD` (R37). -/
  aWord : Half
  /-- Register 15, `A_VAL` (R38). -/
  aVal : Word
  /-- Register 16, `RESULT` (R39). -/
  result : Word
  /-- Register 17, `TXLEN` (R40). -/
  txlen : Byte
  /-- Register 18, `RXLEN` (R41). -/
  rxlen : Byte
  /-- Register 19, `SR_N` (R42). -/
  srN : Byte
  /-- Register 20, `SR_L` (R43). -/
  srL : Byte
  /-- Register 21, `SR_SIZE` (R44). -/
  srSize : Half
  /-- Register 22, `SR_RAWLEN` (R45). -/
  srRawlen : Half
  /-- Register 23, `SR_CUR` (R46). -/
  srCur : Byte
  /-- `HBUF`, 256 bytes (R47). -/
  hbuf : Memory
  /-- `TXBUF`, 255 bytes (R48). -/
  txbuf : Memory
  /-- `RXBUF`, 255 bytes (R49). -/
  rxbuf : Memory
  /-- `SRBUF`, `srBufCap` bytes (R50). -/
  srbuf : Memory
  /-- `PKT`, 249 bytes (R51). -/
  pkt : Memory
  /-- `TXOUT`, the bytes handed to the transmitter, first sent first (R52). -/
  txout : List Byte
  /-- `RXQ`, the bytes arrived and not yet taken, first arrived first (R53). -/
  rxq : List Byte
  /-- `SR_BUF_CAP`, fixed before reset (R10, R284; log 6). -/
  srBufCap : Half
  /-- The model's own: what is still to come from outside, soonest first (log 1, log 2). -/
  inputs : List Input
  /-- The model's own: the values that reads have returned to the host, oldest first (R101, log 7). -/
  hostReads : List Word
  /-- The model's own: what the environment will deliver during the coming `RxTake`s, soonest first (R16, log 3). -/
  draws : List (List Byte)
  /-- The model's own: the number the next free value is taken at (log 5). -/
  drawCount : Nat
deriving DecidableEq, Repr

/-- The state right after reset (R280 to R284): every register and flag 0, no buffer byte specified, the streams empty,
no session. The model's own fields start empty and at 0 (logs 1, 3, 5, 7), and the capacity is the open parameter. -/
def State.reset : State where
  cmd := 0
  ctrl := 0
  err := 0
  esub := 0
  status := 0
  sv := false
  sra := false
  pv := false
  rspAddr := 0
  aAddr := 0
  aInstr := 0
  aReg := 0
  aLen := 0
  aCnt := 0
  aIdx := 0
  aSbit := 0
  aWord := 0
  aVal := 0
  result := 0
  txlen := 0
  rxlen := 0
  srN := 0
  srL := 0
  srSize := 0
  srRawlen := 0
  srCur := 0
  hbuf := []
  txbuf := []
  rxbuf := []
  srbuf := []
  pkt := []
  txout := []
  rxq := []
  srBufCap := Config.srBufCap
  inputs := []
  hostReads := []
  draws := []
  drawCount := 0

end Sys2Proof.Machine
end

