-- ==== Sys2Proof/Machine/Ops.lean ====
section
/-! DEFINITION. The named operations over buffers, streams and registers (R13 to R16), and raising an error, the one
shared operation that every failing command uses. -/

namespace Sys2Proof.Machine

/-! ### Buffers -/

/-- The byte at an index, or none where it is unspecified. -/
def Memory.load : Memory → Nat → Option Byte
  | [], _ => none
  | (a, v) :: m, i => if a = i then some v else Memory.load m i

/-- The cells of a byte list laid out from an index. -/
def Memory.cells : Nat → List Byte → Memory
  | _, [] => []
  | i, b :: bs => (i, b) :: Memory.cells (i + 1) bs

/-- `MemWrite(BUF, i, s)`: the bytes of `s` stand at `i .. i + |s| - 1` and every other byte as before (R13). -/
def Memory.write (m : Memory) (i : Nat) (s : List Byte) : Memory :=
  m.filter (fun c => decide (c.1 < i)) ++ Memory.cells i s ++ m.filter (fun c => decide (i + s.length ≤ c.1))

/-- `BUF[j] <- ANY` for every `j < n`: those bytes become unspecified (R13). -/
def Memory.forget (m : Memory) (n : Nat) : Memory := m.filter (fun c => decide (n ≤ c.1))

/-- Every byte becomes unspecified (R195, R199). -/
def Memory.unspecified : Memory := []

/-- `MemRead(BUF, i, n)` (R13). An unspecified byte is a fresh draw, taken at the numbers `k`, `k + 1`, ... of the draw
counter (R104; log 5). -/
def Memory.read (m : Memory) (k i n : Nat) : List Byte :=
  (List.range n).map (fun j => (m.load (i + j)).getD (Config.freeByte (k + j)))

/-- The canonical form of a buffer of `size` bytes: indices strictly rising and inside the buffer. -/
abbrev Memory.wf (size : Nat) (m : Memory) : Prop :=
  m.Pairwise (fun c d => c.1 < d.1) ∧ ∀ c ∈ m, c.1 < size

/-- A buffer of the block (R47 to R51). -/
def State.buf (s : State) : Buf → Memory
  | .hbuf => s.hbuf
  | .txbuf => s.txbuf
  | .rxbuf => s.rxbuf
  | .srbuf => s.srbuf
  | .pkt => s.pkt

/-- The draw counter moves past `n` numbers (log 5). -/
def State.spend (n : Nat) (s : State) : State := { s with drawCount := s.drawCount + n }

/-! ### Errors (R15) -/

/-- `raise c`: the one shared way an error is recorded. The failure effects a rule adds are applied by the rule. -/
def State.raise (c : Cause) (s : State) : State := { s with err := c.code, esub := c.sub }

/-- What every command that ends without a raise writes: `ERR = OK`, `ESUB = 0`. -/
def State.succeed (s : State) : State := { s with err := 0x00, esub := 0x00 }

/-- `x[RESULT] <- v`. -/
def State.setResult (v : Word) (s : State) : State := { s with result := v }

/-- The failure every rule but NOP, illegal codes and the decoders uses: `RESULT = 0` and the error (92 D34). -/
def State.fail (c : Cause) (s : State) : State := (s.setResult 0).raise c

/-! ### Streams (R16) -/

/-- `TxEmit(f)`: appends to `TXOUT`. -/
def State.txEmit (f : List Byte) (s : State) : State := { s with txout := s.txout ++ f }

/-- `RxFlush()`: `RXQ <- []`. -/
def State.rxFlush (s : State) : State := { s with rxq := [] }

/-- The bytes the environment delivers during the next `RxTake`: the answer the State lists, or a free value where it
lists none (log 3). -/
def State.arrivals (s : State) : List Byte :=
  match s.draws with
  | [] => Config.freeArrivals s.drawCount
  | a :: _ => a

/-- The bytes `RxTake(m)` returns: the first `m` of the queue with the arrivals appended. -/
def State.rxTaken (m : Nat) (s : State) : List Byte := (s.rxq ++ s.arrivals).take m

/-- The state after `RxTake(m)`: the queue keeps the rest, and one answer of the environment is used up. -/
def State.rxRest (m : Nat) (s : State) : State :=
  { s with rxq := (s.rxq ++ s.arrivals).drop m, draws := s.draws.tail, drawCount := s.drawCount + 1 }

/-- The environment appends bytes to `RXQ` between two transactions (R54). -/
def State.arrive (bytes : List Byte) (s : State) : State := { s with rxq := s.rxq ++ bytes }

/-! ### Frames in the buffers -/

/-- `MemWrite(TXBUF, 0, f); x[TXLEN] <- |f|`. -/
def State.placeFrame (f : List Byte) (s : State) : State :=
  { s with txbuf := s.txbuf.write 0 f, txlen := BitVec.ofNat 8 f.length }

/-- `MemWrite(RXBUF, 0, r); x[RXLEN] <- |r|`. -/
def State.placeReceived (r : List Byte) (s : State) : State :=
  { s with rxbuf := s.rxbuf.write 0 r, rxlen := BitVec.ofNat 8 r.length }

/-! ### The checksum (R14) -/

/-- `Checksum(s)`: the bitwise NOT of the byte sum modulo 256. -/
def checksum (s : List Byte) : Byte := ~~~ (BitVec.ofNat 8 ((s.map BitVec.toNat).sum % 256))

end Sys2Proof.Machine
end

