-- ==== Sys2Proof/Machine/Flags.lean ====
section
/-! DEFINITION. The fields of `FLAGS` (R28): how the register reads, and what sets and clears each. -/

namespace Sys2Proof.Machine

/-- `FLAGS` as a byte: bit 0 SV, bit 1 SRA, bit 2 PV, bits 7:3 read as 0 (R28). -/
def State.flags (s : State) : Byte :=
  BitVec.ofNat 8 (s.sv.toNat + 2 * s.sra.toNat + 4 * s.pv.toNat)

/-- A validated response frame: its address, status and data (R83). -/
structure Response where
  address : Byte
  status : Byte
  data : List Byte
deriving DecidableEq, Repr

/-- A status-observing command succeeded: `STATUS`, `FLAGS.SV <- 1`, `RSP_ADDR` (R27, R29, R132, R195). -/
def State.observe (r : Response) (s : State) : State :=
  { s with status := r.status, sv := true, rspAddr := r.address }

/-- A status-observing command saw no valid status byte: `FLAGS.SV <- 0`, `STATUS` keeps its byte (R28, 92 D14). -/
def State.observeNothing (s : State) : State := { s with sv := false }

/-- `FLAGS.PV <- 0` with `PKT` unspecified (R195, R199). -/
def State.dropPacket (s : State) : State := { s with pv := false, pkt := Memory.unspecified }

end Sys2Proof.Machine
end

