-- ==== Sys2Proof/Machine/Operands.lean ====
section
/-! DEFINITION. How commands and the host read the registers and buffers: operand fields (R24, R36, R38, R97), what a
register reads as (R22, R101), and which buffer bytes are specified (R104). -/

namespace Sys2Proof.Machine

/-- `CTRL.END` (R24). -/
def State.endBit (s : State) : Bool := s.ctrl.getLsbD 0

/-- `A_SBIT.S`, bits 3:0 (R36). -/
def State.signBit (s : State) : Nat := s.aSbit.toNat % 16

/-- `A_SBIT.SE`, bit 7 (R36). -/
def State.signEnable (s : State) : Bool := s.aSbit.getLsbD 7

/-- `A_VAL` as a 32-bit two's-complement integer (R38). -/
def State.signedOperand (s : State) : Int := s.aVal.toInt

/-- `HBUF[0..n-1]` as a command reads it (R97). -/
def State.hostBytes (n : Nat) (s : State) : List Byte := s.hbuf.read s.drawCount 0 n

/-- The value of a register, zero-extended to 32 bits; reserved bits read as 0 (R22, R24, R28, R36, R101). -/
def State.reg (s : State) : Reg → Word
  | .cmd => s.cmd.setWidth 32
  | .ctrl => (s.ctrl &&& 0x01).setWidth 32
  | .err => s.err.setWidth 32
  | .esub => s.esub.setWidth 32
  | .status => s.status.setWidth 32
  | .flags => s.flags.setWidth 32
  | .rspAddr => s.rspAddr.setWidth 32
  | .aAddr => s.aAddr.setWidth 32
  | .aInstr => s.aInstr.setWidth 32
  | .aReg => s.aReg.setWidth 32
  | .aLen => s.aLen.setWidth 32
  | .aCnt => s.aCnt.setWidth 32
  | .aIdx => s.aIdx.setWidth 32
  | .aSbit => (s.aSbit &&& 0x8F).setWidth 32
  | .aWord => s.aWord.setWidth 32
  | .aVal => s.aVal
  | .result => s.result
  | .txlen => s.txlen.setWidth 32
  | .rxlen => s.rxlen.setWidth 32
  | .srN => s.srN.setWidth 32
  | .srL => s.srL.setWidth 32
  | .srSize => s.srSize.setWidth 32
  | .srRawlen => s.srRawlen.setWidth 32
  | .srCur => s.srCur.setWidth 32

/-- `x[r] <- v` by the host, for the registers it may write (R101). The others are refused before this (R103 (f)), so
their case writes nothing. -/
def State.writeReg (r : Reg) (v : Word) (s : State) : State :=
  match r with
  | .cmd => { s with cmd := v.setWidth 8 }
  | .ctrl => { s with ctrl := v.setWidth 8 }
  | .aAddr => { s with aAddr := v.setWidth 8 }
  | .aInstr => { s with aInstr := v.setWidth 8 }
  | .aReg => { s with aReg := v.setWidth 8 }
  | .aLen => { s with aLen := v.setWidth 8 }
  | .aCnt => { s with aCnt := v.setWidth 8 }
  | .aIdx => { s with aIdx := v.setWidth 8 }
  | .aSbit => { s with aSbit := v.setWidth 8 }
  | .aWord => { s with aWord := v.setWidth 16 }
  | .aVal => { s with aVal := v }
  | .err | .esub | .status | .flags | .rspAddr | .result | .txlen | .rxlen | .srN | .srL | .srSize | .srRawlen
  | .srCur => s

/-- Whether an index of a buffer lies in the part the host may rely on (R104). -/
def State.inValidPart (s : State) (b : Buf) (i : Nat) : Bool :=
  match b with
  | .hbuf => true
  | .txbuf => decide (i < s.txlen.toNat)
  | .rxbuf => decide (i < s.rxlen.toNat)
  | .srbuf => decide (i < s.srRawlen.toNat)
  | .pkt => s.pv && decide (i < s.srL.toNat)

/-- The byte a host read of a buffer must return, or none where R104 leaves it unspecified. -/
def State.byteAt (s : State) (b : Buf) (i : Nat) : Option Byte :=
  if s.inValidPart b i then (s.buf b).load i else none

end Sys2Proof.Machine
end

