-- ==== Sys2Proof/Machine/Control.lean ====
section
/-! DEFINITION. The commands of no family (43_endian.md section 3): NOP and the illegal codes. -/

namespace Sys2Proof.Machine

/-- `NOP` (R238). -/
def execNop (s : State) : Host.Outcome State Fault Refusal := .next s.succeed

/-- An illegal command code (R239): ILLEGAL_CMD, and nothing else changes. -/
def State.illegalCommand (s : State) : State := s.raise .illegalCmd

end Sys2Proof.Machine
end

