-- ==== Sys2Proof/Machine/Codec.lean ====
section
/-! DEFINITION. The frame codec (40_frame_codec.md): BuildFrame, the request of each wire operation, the response
check, and the commands CKSUM, ENCODE and DECODE. -/

namespace Sys2Proof.Machine

/-- The broadcast address (R9). -/
def broadcast : Byte := 0xFE

/-- `BuildFrame(a, i, P)` (R80 to R82, R120). -/
def buildFrame (a i : Byte) (p : List Byte) : List Byte :=
  let body := a :: BitVec.ofNat 8 (p.length + 2) :: i :: p
  [0xFF, 0xFF] ++ body ++ [checksum body]

/-- `Request_i()`: the address and the parameter bytes of the request, or the error it raises (R88 to R90, R124 to
R130; the order of the checks R259). -/
def request (op : WireOp) (s : State) : Except Cause (Byte × List Byte) :=
  let n := s.aLen.toNat
  let count := s.aCnt.toNat
  match op with
  | .ping | .btrigger => .ok (s.aAddr, [])
  | .read =>
    if s.aAddr = broadcast then .error (.invalidParam .broadcastRead)
    else if 249 < n then .error (.invalidParam .tooLong)
    else .ok (s.aAddr, [s.aReg, s.aLen])
  | .write | .bwrite =>
    if 248 < n then .error (.invalidParam .tooLong)
    else .ok (s.aAddr, s.aReg :: s.hostBytes n)
  | .syncread =>
    if count = 0 then .error (.invalidParam .badCount)
    else if 247 < count then .error (.invalidParam .tooLong)
    else if 249 < n then .error (.invalidParam .tooLong)
    else .ok (broadcast, s.aReg :: s.aLen :: s.hostBytes count)
  | .syncwrite =>
    if count = 0 then .error (.invalidParam .badCount)
    else if 247 < count * (n + 1) then .error (.invalidParam .tooLong)
    else .ok (broadcast, s.aReg :: s.aLen :: s.hostBytes (count * (n + 1)))

/-- The check of a response: the checks of R132 in their order, the first that fails being the error. `i` is the
instruction of the request: the address of a broadcast Ping's answer is not checked. -/
def checkResponse (r : List Byte) (a : Byte) (n : Nat) (i : Byte) : Except Cause Response :=
  if 249 < n then .error (.invalidParam .tooLong)
  else if r.length < n + 6 then .error .timeout
  else if n + 6 < r.length then .error (.framing .overrun)
  else if r.getD 0 0 ≠ 0xFF ∨ r.getD 1 0 ≠ 0xFF then .error (.framing .header)
  else if ¬ (i = WireOp.ping.code ∧ a = broadcast) ∧ r.getD 2 0 ≠ a then .error (.framing .address)
  else if (r.getD 3 0).toNat ≠ n + 2 then .error (.framing .length)
  else if r.getD (n + 5) 0 ≠ checksum ((r.drop 2).take (n + 3)) then .error (.framing .checksum)
  else .ok { address := r.getD 2 0, status := r.getD 4 0, data := (r.drop 5).take n }

/-- `fail E` of R132: `SV = 0`, `RESULT = 0`, and after TIMEOUT or FRAMING `HBUF[0..n-1]` unspecified. -/
def State.failDecode (n : Nat) (c : Cause) (s : State) : State :=
  State.fail c { s with sv := false, hbuf := if c.spoilsData then s.hbuf.forget n else s.hbuf }

/-- The effects of a response that passed every check (R132). -/
def State.acceptResponse (n : Nat) (resp : Response) (s : State) : State :=
  (State.setResult (BitVec.ofNat 32 n) { s.observe resp with hbuf := s.hbuf.write 0 resp.data }).succeed

/-- `Decode(a, n, i)` on `RXBUF[0..RXLEN-1]` (R132). -/
def State.decodeReceived (a : Byte) (n : Nat) (i : Byte) (s : State) : State :=
  let r := s.rxbuf.read s.drawCount 0 s.rxlen.toNat
  let s := s.spend s.rxlen.toNat
  match checkResponse r a n i with
  | .error c => s.failDecode n c
  | .ok resp => s.acceptResponse n resp

/-- `CKSUM` (R122). -/
def execCksum (s : State) : Host.Outcome State Fault Refusal :=
  let n := s.aLen.toNat
  .next ((s.spend n).setResult ((checksum (s.hostBytes n)).setWidth 32)).succeed

/-- `ENCODE` of one wire operation: the request's frame in `TXBUF` (R123). -/
def State.encodeRequest (op : WireOp) (s : State) : State :=
  match request op s with
  | .error c => s.fail c
  | .ok (a, p) =>
    let f := buildFrame a op.code p
    (((s.spend p.length).placeFrame f).setResult (BitVec.ofNat 32 f.length)).succeed

/-- `ENCODE` (R123): `A_INSTR` selects the wire operation, and any other value is BAD_INSTR. -/
def execEncode (s : State) : Host.Outcome State Fault Refusal :=
  match WireOp.ofCode? s.aInstr with
  | none => .next (s.fail (.invalidParam .badInstr))
  | some op => .next (s.encodeRequest op)

/-- `DECODE` (R131). -/
def execDecode (s : State) : Host.Outcome State Fault Refusal :=
  .next (s.decodeReceived s.aAddr s.aLen.toNat s.aInstr)

end Sys2Proof.Machine
end

