-- ==== Sys2Proof/Machine/Endian.lean ====
section
/-! DEFINITION. The endianness adapter and the sign-magnitude conversion (43_endian.md): H2B, B2H, SM_DEC, SM_ENC. -/

namespace Sys2Proof.Machine

/-- `WordToPair(w, e)` (R230): the first byte is the one at the lower index. -/
def wordToPair (w : Half) (e : Bool) : Byte × Byte :=
  let low := BitVec.ofNat 8 (w.toNat % 256)
  let high := BitVec.ofNat 8 (w.toNat / 256)
  if e then (high, low) else (low, high)

/-- `PairToWord(b0, b1, e)` (R230). -/
def pairToWord (b0 b1 : Byte) (e : Bool) : Half :=
  if e then BitVec.ofNat 16 (b0.toNat * 256 + b1.toNat) else BitVec.ofNat 16 (b0.toNat + b1.toNat * 256)

/-- `SMDecode(w, S, SE)` (R233): with the sign enabled, the magnitude is `w` with bit `S` cleared. -/
def smDecode (w : Half) (sgn : Nat) (se : Bool) : Int :=
  if se = false then (w.toNat : Int)
  else if w.getLsbD sgn then -((w.toNat - 2 ^ sgn : Nat) : Int)
  else (w.toNat : Int)

/-- `SMEncode(v, S, SE)` (R235); none is NR, not representable. -/
def smEncode (v : Int) (sgn : Nat) (se : Bool) : Option Half :=
  if se = false then
    if 0 ≤ v ∧ v ≤ 0xFFFF then some (BitVec.ofNat 16 v.toNat) else none
  else if 0xFFFF < v.natAbs ∨ v.natAbs.testBit sgn = true then none
  else if v < 0 then some (BitVec.ofNat 16 (v.natAbs + 2 ^ sgn))
  else some (BitVec.ofNat 16 v.natAbs)

/-- `H2B` (R231). -/
def execH2b (s : State) : Host.Outcome State Fault Refusal :=
  let i := s.aIdx.toNat
  if 254 < i then .next (s.fail (.invalidParam .badIndex))
  else
    let p := wordToPair s.aWord s.endBit
    .next (State.setResult 2 { s with hbuf := s.hbuf.write i [p.1, p.2] }).succeed

/-- `B2H` (R232). -/
def execB2h (s : State) : Host.Outcome State Fault Refusal :=
  let i := s.aIdx.toNat
  if 254 < i then .next (s.fail (.invalidParam .badIndex))
  else
    let r := s.hbuf.read s.drawCount i 2
    .next ((s.spend 2).setResult ((pairToWord (r.getD 0 0) (r.getD 1 0) s.endBit).setWidth 32)).succeed

/-- `SM_DEC` (R234). -/
def execSmDec (s : State) : Host.Outcome State Fault Refusal :=
  .next (s.setResult (BitVec.ofInt 32 (smDecode s.aWord s.signBit s.signEnable))).succeed

/-- `SM_ENC` (R236). -/
def execSmEnc (s : State) : Host.Outcome State Fault Refusal :=
  match smEncode s.signedOperand s.signBit s.signEnable with
  | none => .next (s.fail (.invalidParam .notRepresentable))
  | some w => .next (s.setResult (w.setWidth 32)).succeed

end Sys2Proof.Machine
end

