-- ==== Sys2Proof/Machine/Session.lean ====
section
/-! DEFINITION. The sync-read session (42_sync_read.md): SR_BEGIN, SR_XFER, the scanner, SR_EXTRACT, the sequential
decoders and SR_END. -/

namespace Sys2Proof.Machine

/-- The session is inactive: its registers are 0 and no packet is valid (R55, R199). -/
def State.clearSession (s : State) : State :=
  { s with
    sra := false, pv := false, srN := 0, srL := 0, srSize := 0, srRawlen := 0, srCur := 0,
    srbuf := Memory.unspecified, pkt := Memory.unspecified }

/-- A session of `N` nodes with `L` data bytes each begins (R191). -/
def State.startSession (n l : Byte) (s : State) : State :=
  { s with
    sra := true, pv := false, srN := n, srL := l, srSize := BitVec.ofNat 16 (n.toNat * (l.toNat + 6)),
    srRawlen := 0, srCur := 0 }

/-- `MemWrite(TXBUF, 0, f); x[TXLEN] <- |f|; RxFlush(); TxEmit(f)` (R163, R192). -/
def State.transmit (f : List Byte) (s : State) : State := ((s.placeFrame f).rxFlush).txEmit f

/-- `SR_BEGIN` (R191). -/
def execSrBegin (s : State) : Host.Outcome State Fault Refusal :=
  let size := s.aCnt.toNat * (s.aLen.toNat + 6)
  if s.sra then .next (s.fail (.session .alreadyActive))
  else if s.aCnt = 0 then .next (s.fail (.invalidParam .badCount))
  else if 249 < s.aLen.toNat then .next (s.fail (.invalidParam .tooLong))
  else if s.srBufCap.toNat < size then .next (s.fail .alloc)
  else .next ((s.startSession s.aCnt s.aLen).setResult (BitVec.ofNat 32 size)).succeed

/-- The SyncRead exchange (R192): the frame with `SR_L` as its length byte, then up to `SR_SIZE` bytes into `SRBUF`. -/
def State.syncReadTransfer (s : State) : State :=
  let count := s.aCnt.toNat
  if s.sra = false then s.fail (.session .notActive)
  else if count = 0 then s.fail (.invalidParam .badCount)
  else if 247 < count then s.fail (.invalidParam .tooLong)
  else
    let f := buildFrame broadcast WireOp.syncread.code (s.aReg :: s.srL :: s.hostBytes count)
    let sent := (s.spend count).transmit f
    let r := sent.rxTaken s.srSize.toNat
    let rest := sent.rxRest s.srSize.toNat
    (State.setResult (BitVec.ofNat 32 r.length)
      { rest with srbuf := rest.srbuf.write 0 r, srRawlen := BitVec.ofNat 16 r.length }).succeed

/-- `SR_XFER` (R192). -/
def execSrXfer (s : State) : Host.Outcome State Fault Refusal := .next s.syncReadTransfer

/-! ### The scanner (R193, R194) -/

/-- Whether `h` is a candidate: `FF FF X` with `X` not `FF` stands at `h`, inside the buffer (R193). -/
def isCandidate (buf : List Byte) (h : Nat) : Bool :=
  decide (h + 2 < buf.length) && decide (buf.getD h 0 = 0xFF) && decide (buf.getD (h + 1) 0 = 0xFF) &&
    decide (buf.getD (h + 2) 0 ≠ 0xFF)

/-- `FindHeader(buf, len, s)`: the smallest candidate from `s` on (R193). The list holds just the valid bytes. -/
def findHeader (buf : List Byte) (s : Nat) : Option Nat :=
  (List.range' s (buf.length - s)).find? (isCandidate buf)

/-- The result of a scan (R194). -/
inductive ScanResult where
  | found (h : Nat) (status : Byte) (data : List Byte)
  | notFound
  | truncated
  | checksum
deriving DecidableEq, Repr

/-- The loop of R194, from position `s`, for at most `fuel` candidates. Every turn moves `s` forward past a byte of the
buffer, so a fuel above the number of bytes left never runs out (log 12). -/
def scanFrom (t : Byte) (l : Nat) (buf : List Byte) : Nat → Nat → ScanResult
  | 0, _ => .notFound
  | fuel + 1, s =>
    match findHeader buf s with
    | none => .notFound
    | some h =>
      if buf.getD (h + 2) 0 ≠ t then scanFrom t l buf fuel (h + 1)
      else if buf.length ≤ h + 3 then .truncated
      else if (buf.getD (h + 3) 0).toNat ≠ l + 2 then scanFrom t l buf fuel (h + 4)
      else if buf.length ≤ h + 5 + l then .truncated
      else
        let status := buf.getD (h + 4) 0
        let data := (buf.drop (h + 5)).take l
        if buf.getD (h + 5 + l) 0 ≠ checksum (t :: BitVec.ofNat 8 (l + 2) :: status :: data) then .checksum
        else .found h status data

/-- `Scan(t, L, buf, len)`, always from index 0 (R194, 92 D17). -/
def scan (t : Byte) (l : Nat) (buf : List Byte) : ScanResult := scanFrom t l buf (buf.length + 1) 0

/-- `fail E` of R195: no packet, no status, `RESULT = 0`, `PKT` unspecified. -/
def State.failExtract (c : Cause) (s : State) : State := s.dropPacket.observeNothing.fail c

/-- `SR_EXTRACT` (R195). Without a session `SR_CUR` is left as it is (DEDUCED, log 14). -/
def execSrExtract (s : State) : Host.Outcome State Fault Refusal :=
  if s.sra = false then .next (s.failExtract (.session .notActive))
  else
    let t := s.aAddr
    let l := s.srL
    let raw := s.srbuf.read s.drawCount 0 s.srRawlen.toNat
    let s := { s.spend s.srRawlen.toNat with srCur := 0, pv := false }
    match scan t l.toNat raw with
    | .found _ status data =>
      .next (State.setResult (l.setWidth 32)
        { s.observe { address := t, status := status, data := data } with
          pkt := s.pkt.write 0 data, pv := true }).succeed
    | .notFound => .next (s.failExtract (.framing .notFound))
    | .truncated => .next (s.failExtract (.framing .truncated))
    | .checksum => .next (s.failExtract (.framing .checksum))

/-! ### The sequential decoders (R197, R198) -/

/-- The decoders' failure: the sentinel −1 and EXHAUSTED; the cursor stays (R197, R198, 92 D22). -/
def State.exhaust (s : State) : State := (s.setResult 0xFFFFFFFF).raise .exhausted

/-- `SR_NEXT_BYTE` (R197). -/
def execSrNextByte (s : State) : Host.Outcome State Fault Refusal :=
  if s.pv = false ∨ s.srL.toNat ≤ s.srCur.toNat then .next s.exhaust
  else
    let r := s.pkt.read s.drawCount s.srCur.toNat 1
    .next (State.setResult ((r.getD 0 0).setWidth 32)
      { s.spend 1 with srCur := BitVec.ofNat 8 (s.srCur.toNat + 1) }).succeed

/-- `SR_NEXT_WORD` (R198). -/
def execSrNextWord (s : State) : Host.Outcome State Fault Refusal :=
  if s.pv = false ∨ s.srL.toNat < s.srCur.toNat + 2 then .next s.exhaust
  else
    let r := s.pkt.read s.drawCount s.srCur.toNat 2
    let w := pairToWord (r.getD 0 0) (r.getD 1 0) s.endBit
    .next (State.setResult (BitVec.ofInt 32 (smDecode w s.signBit s.signEnable))
      { s.spend 2 with srCur := BitVec.ofNat 8 (s.srCur.toNat + 2) }).succeed

/-- `SR_END` (R199): without a session only `RESULT`, `ERR` and `ESUB` are written. -/
def execSrEnd (s : State) : Host.Outcome State Fault Refusal :=
  .next ((if s.sra then s.clearSession else s).setResult 0).succeed

end Sys2Proof.Machine
end

