-- ==== Sys2Proof/Machine/Transact.lean ====
section
/-! DEFINITION. The transactions (41_transactions.md): SEND, FLUSH_RX, RECV, XACT, and the seven wire instructions,
each of which is one transaction. -/

namespace Sys2Proof.Machine

/-- What answers a request (R91). -/
inductive Expectation where
  | nothing
  | response (n : Nat)
  | session
deriving DecidableEq, Repr

/-- `Expect(i, a, n)` (R91). -/
def expect (op : WireOp) (a : Byte) (n : Nat) : Expectation :=
  match op with
  | .ping => .response 0
  | .read => .response n
  | .write | .bwrite | .btrigger => if a = broadcast then .nothing else .response 0
  | .syncwrite => .nothing
  | .syncread => .session

/-- `fail E` of R163 before a frame is built: `SV = 0`, `RESULT = 0`, nothing transmitted. -/
def State.failBeforeSend (c : Cause) (s : State) : State := s.observeNothing.fail c

/-- The end of a transaction that no response answers (R163). -/
def State.endSilent (s : State) : State := (s.observeNothing.setResult 0).succeed

/-- The receiving half of a transaction: take `n + 6` bytes, keep them in `RXBUF`, check them (R163). -/
def State.receiveResponse (a : Byte) (n : Nat) (i : Byte) (s : State) : State :=
  ((s.rxRest (n + 6)).placeReceived (s.rxTaken (n + 6))).decodeReceived a n i

/-- One transaction of a wire operation: build, flush, transmit, and take what answers (R163 to R169). SyncRead is
refused (R170). -/
def State.transact (op : WireOp) (s : State) : State :=
  if op = .syncread then s.failBeforeSend (.invalidParam .badInstr)
  else
    match request op s with
    | .error c => s.failBeforeSend c
    | .ok (a, p) =>
      let sent := (s.spend p.length).transmit (buildFrame a op.code p)
      match expect op a s.aLen.toNat with
      | .response n => sent.receiveResponse a n op.code
      | .nothing | .session => sent.endSilent

/-- `SEND` (R160). -/
def execSend (s : State) : Host.Outcome State Fault Refusal :=
  let n := s.txlen.toNat
  let f := s.txbuf.read s.drawCount 0 n
  .next (((s.spend n).txEmit f).setResult (s.txlen.setWidth 32)).succeed

/-- `FLUSH_RX` (R161). -/
def execFlushRx (s : State) : Host.Outcome State Fault Refusal :=
  .next (s.rxFlush.setResult 0).succeed

/-- `RECV` (R162). -/
def execRecv (s : State) : Host.Outcome State Fault Refusal :=
  let m := s.aLen.toNat
  let r := s.rxTaken m
  .next (((s.rxRest m).placeReceived r).setResult (BitVec.ofNat 32 r.length)).succeed

/-- `XACT` (R163): `A_INSTR` selects the wire operation, and any other value is BAD_INSTR. -/
def execXact (s : State) : Host.Outcome State Fault Refusal :=
  match WireOp.ofCode? s.aInstr with
  | none => .next (s.failBeforeSend (.invalidParam .badInstr))
  | some op => .next (s.transact op)

/-- The wire instruction Ping (R124, R164). -/
def execPing (s : State) : Host.Outcome State Fault Refusal := .next (s.transact .ping)

/-- The wire instruction Read (R125, R165). -/
def execRead (s : State) : Host.Outcome State Fault Refusal := .next (s.transact .read)

/-- The wire instruction Write (R126, R166). -/
def execWrite (s : State) : Host.Outcome State Fault Refusal := .next (s.transact .write)

/-- The wire instruction BufferedWrite (R127, R167). -/
def execBwrite (s : State) : Host.Outcome State Fault Refusal := .next (s.transact .bwrite)

/-- The wire instruction BufferedWriteTrigger (R128, R168). -/
def execBtrigger (s : State) : Host.Outcome State Fault Refusal := .next (s.transact .btrigger)

/-- The wire instruction SyncWrite (R130, R169). -/
def execSyncwrite (s : State) : Host.Outcome State Fault Refusal := .next (s.transact .syncwrite)

/-- The wire instruction SyncRead: its transaction is `SR_XFER`'s (R86, R170, R192). -/
def execSyncread (s : State) : Host.Outcome State Fault Refusal := .next s.syncReadTransfer

end Sys2Proof.Machine
end

