-- ==== Sys2Proof/Machine/Dispatch.lean ====
section
/-! DEFINITION. One arm per instruction. -/

namespace Sys2Proof.Machine

def exec (i : Instr) (s : State) : Host.Outcome State Fault Refusal :=
  match i with
  | .ping => Sys2Proof.Machine.execPing s
  | .read => Sys2Proof.Machine.execRead s
  | .write => Sys2Proof.Machine.execWrite s
  | .bwrite => Sys2Proof.Machine.execBwrite s
  | .btrigger => Sys2Proof.Machine.execBtrigger s
  | .syncread => Sys2Proof.Machine.execSyncread s
  | .syncwrite => Sys2Proof.Machine.execSyncwrite s
  | .nop => Sys2Proof.Machine.execNop s
  | .cksum => Sys2Proof.Machine.execCksum s
  | .encode => Sys2Proof.Machine.execEncode s
  | .decode => Sys2Proof.Machine.execDecode s
  | .send => Sys2Proof.Machine.execSend s
  | .flushRx => Sys2Proof.Machine.execFlushRx s
  | .recv => Sys2Proof.Machine.execRecv s
  | .xact => Sys2Proof.Machine.execXact s
  | .srBegin => Sys2Proof.Machine.execSrBegin s
  | .srXfer => Sys2Proof.Machine.execSrXfer s
  | .srExtract => Sys2Proof.Machine.execSrExtract s
  | .srNextByte => Sys2Proof.Machine.execSrNextByte s
  | .srNextWord => Sys2Proof.Machine.execSrNextWord s
  | .srEnd => Sys2Proof.Machine.execSrEnd s
  | .h2b => Sys2Proof.Machine.execH2b s
  | .b2h => Sys2Proof.Machine.execB2h s
  | .smDec => Sys2Proof.Machine.execSmDec s
  | .smEnc => Sys2Proof.Machine.execSmEnc s

end Sys2Proof.Machine
end

