-- ==== Sys2Proof/Machine/HostPort.lean ====
section
/-! DEFINITION. The host transactions (R101 to R104, R23): what each does to the block, and the step of one word. -/

namespace Sys2Proof.Machine

/-- The command with code `c` runs; a code that names none raises ILLEGAL_CMD (R23, R95, R96, R239). -/
def runCommand (c : Byte) (s : State) : Host.Outcome State Fault Refusal :=
  match Instr.ofCommand? c with
  | some i => exec i s
  | none => .next s.illegalCommand

/-- A value is returned to the host (R101; log 7). -/
def State.returnToHost (v : Word) (s : State) : State := { s with hostReads := s.hostReads ++ [v] }

/-- `REGRD`: the register's value; `STATUS` while `SV = 0` is unspecified, a fresh draw (R27, R101; log 9). -/
def State.readReg (r : Reg) (s : State) : State :=
  if r = .status ∧ s.sv = false then
    (s.spend 1).returnToHost ((Config.freeByte s.drawCount).setWidth 32)
  else s.returnToHost (s.reg r)

/-- `BUFRD`: the byte, or a fresh draw where it is unspecified (R101, R104; log 5). -/
def State.readBuf (b : Buf) (i : Nat) (s : State) : State :=
  (s.spend 1).returnToHost (((s.byteAt b i).getD (Config.freeByte s.drawCount)).setWidth 32)

/-- `BUFWR`: `HBUF[i] <- v` (R101). -/
def State.writeHostByte (i : Nat) (v : Byte) (s : State) : State := { s with hbuf := s.hbuf.write i [v] }

/-- One accepted host transaction (R101). A write to `CMD` stores the code and then runs the command (R23). -/
def runTxn (t : HostTxn) (s : State) : Host.Outcome State Fault Refusal :=
  match t with
  | .regWrite r v =>
    if r = .cmd then runCommand (v.setWidth 8) (s.writeReg .cmd v) else .next (s.writeReg r v)
  | .regRead r => .next (s.readReg r)
  | .bufWrite i v => .next (s.writeHostByte i.toNat v)
  | .bufRead b i => .next (s.readBuf b i.toNat)

/-- One host word: refused by R103, or the transaction it stands for. -/
def runHostWord (w : HostWord) (s : State) : Host.Outcome State Fault Refusal :=
  match decodeWord s.srBufCap.toNat w with
  | .error why => .refused (.hostTransaction why)
  | .ok t => runTxn t s

/-- The next input from outside: a host transaction, or an arrival on the receive line (R20, R54). With none pending
the block waits, and nothing changes (R284; log 1). -/
def runInput (s : State) : Host.Outcome State Fault Refusal :=
  match s.inputs with
  | [] => .next s
  | .transaction w :: rest => runHostWord w { s with inputs := rest }
  | .arrival bytes :: rest => .next (State.arrive bytes { s with inputs := rest })

/-- The host word that makes the block run an opcode-table row: for a wire instruction the command whose transaction
it is (R86), for a command its own word. -/
def tableRowWord (nbits w : Nat) : HostWord :=
  if nbits = 8 then
    if w = WireOp.syncread.code.toNat then commandWord 0x11 else commandWord 0x07
  else BitVec.ofNat 64 w

/-- `A_INSTR` as that command needs it: a wire instruction that XACT runs is selected by its code (R163). -/
def tableRowInstr (nbits w : Nat) (s : State) : Byte :=
  if nbits = 8 ∧ w ≠ WireOp.syncread.code.toNat then BitVec.ofNat 8 w else s.aInstr

end Sys2Proof.Machine
end

