-- ==== Sys2Proof/Machine/Step.lean ====
section
/-! DEFINITION. The step, and how an instruction is put where the step finds it next. -/

namespace Sys2Proof.Machine

/-- One step of the machine: the next thing that comes from outside (R20). -/
def step (s : State) : Host.Outcome State Fault Refusal := runInput s

/-- The state in which the very next step runs an opcode-table row: the host's next transaction is the command, and for
a wire instruction `A_INSTR` selects it (log 13). -/
def State.withFetchWord (s : State) (nbits w : Nat) : State :=
  { s with aInstr := tableRowInstr nbits w s, inputs := .transaction (tableRowWord nbits w) :: s.inputs }

end Sys2Proof.Machine
end

