-- ==== Sys2Proof/Machine/Assembly.lean ====
section
/-! DEFINITION. The assembler of host programs (R105, R106): the words of a line or pseudo-instruction, and the reading
of a line of text. It is the host's side of the block: no step uses it. -/

namespace Sys2Proof

/-! ### The words of a line -/

/-- `wr REG, v` (R105). -/
def asmWr (r : Reg) (v : Word) : HostWord := packHostWord 0 Space.reg.code r.number v.toNat

/-- `rd REG` (R105). -/
def asmRd (r : Reg) : HostWord := packHostWord 1 Space.reg.code r.number 0

/-- `wb HBUF[i], v` (R105). -/
def asmWb (i : Half) (v : Word) : HostWord := packHostWord 2 (Space.buf .hbuf).code i.toNat v.toNat

/-- `rb SPACE[i]` (R105). -/
def asmRb (b : Buf) (i : Half) : HostWord := packHostWord 3 (Space.buf b).code i.toNat 0

/-- `cmd MNEMONIC` (R105); a wire instruction is no command and gives no word (DESIGN CHOICE, log 11: no text line reads
as this). -/
def asmCmd (i : Instr) : List HostWord :=
  match i.commandCode? with
  | some c => [asmWr .cmd (c.setWidth 32)]
  | none => []

/-- `wb HBUF[j], bj` for `j = 0, 1, ...` (R106). From the entry 65536 on the index is taken modulo 2^16, the width of INDEX
(DESIGN CHOICE, log 11): the block has by then refused the write to `HBUF[256]` (R103 (d)). -/
def asmBytes : Nat → List Word → List HostWord
  | _, [] => []
  | j, b :: bs => asmWb (BitVec.ofNat 16 j) b :: asmBytes (j + 1) bs

/-- A write of a wire code to `A_INSTR` (R106). -/
def asmSelect (op : WireOp) : HostWord := asmWr .aInstr (op.code.setWidth 32)

/-- The count of a list, as the line writes it to `A_LEN` or `A_CNT` (R106), modulo 2^32, the width of VALUE (DESIGN
CHOICE, log 11). -/
def asmCount (r : Reg) (bs : List α) : HostWord := asmWr r (BitVec.ofNat 32 bs.length)

/-- `write` and `bwrite` (R106). -/
def asmWrite (op : WireOp) (a r : Word) (data : List Word) : List HostWord :=
  asmBytes 0 data ++ [asmSelect op, asmWr .aAddr a, asmWr .aReg r, asmCount .aLen data] ++ asmCmd .xact

/-- The words of a line, in the order the host issues them (R105, R106). -/
def AsmLine.words : AsmLine → List HostWord
  | .wr r v => [asmWr r v]
  | .rd r => [asmRd r]
  | .wb i v => [asmWb i v]
  | .rb b i => [asmRb b i]
  | .cmd i => asmCmd i
  | .ping a => [asmSelect .ping, asmWr .aAddr a] ++ asmCmd .xact
  | .read a r n => [asmSelect .read, asmWr .aAddr a, asmWr .aReg r, asmWr .aLen n] ++ asmCmd .xact
  | .write a r data => asmWrite .write a r data
  | .bwrite a r data => asmWrite .bwrite a r data
  | .btrigger a => [asmSelect .btrigger, asmWr .aAddr a] ++ asmCmd .xact
  | .syncwrite r len records =>
    asmBytes 0 records.flatten ++
      [asmSelect .syncwrite, asmWr .aReg r, asmWr .aLen len, asmCount .aCnt records] ++ asmCmd .xact
  | .srbegin n len => [asmWr .aCnt n, asmWr .aLen len] ++ asmCmd .srBegin
  | .srxfer r ids => asmBytes 0 ids ++ [asmWr .aReg r, asmCount .aCnt ids] ++ asmCmd .srXfer
  | .srextract a => [asmWr .aAddr a] ++ asmCmd .srExtract
  | .setend e => [asmWr .ctrl e]

/-- The words of a program (R105). -/
def assemble (p : List AsmLine) : List HostWord := p.flatMap AsmLine.words

/-! ### Reading a line of text (R105; log 11) -/

/-- The value of a hexadecimal digit, in either case. -/
def digitValue? (c : Char) : Option Nat :=
  let n := c.toNat
  if 48 ≤ n ∧ n ≤ 57 then some (n - 48)
  else if 65 ≤ n ∧ n ≤ 70 then some (n - 55)
  else if 97 ≤ n ∧ n ≤ 102 then some (n - 87)
  else none

/-- The value of a digit string in a base, from a value already read. -/
def digits? (base : Nat) : Nat → List Char → Option Nat
  | acc, [] => some acc
  | acc, c :: cs =>
    match digitValue? c with
    | some d => if d < base then digits? base (acc * base + d) cs else none
    | none => none

/-- A number: hexadecimal with `0x`, else decimal (R105). -/
def number? (cs : List Char) : Option Nat :=
  match cs with
  | [] => none
  | ['0', 'x'] => none
  | '0' :: 'x' :: ds => digits? 16 0 ds
  | ds => digits? 10 0 ds

/-- A number of at most 32 bits. -/
def word? (cs : List Char) : Option Word :=
  match number? cs with
  | some n => if n < 2 ^ 32 then some (BitVec.ofNat 32 n) else none
  | none => none

/-- A buffer index, a number of at most 16 bits. -/
def index? (cs : List Char) : Option Half :=
  match number? cs with
  | some n => if n < 2 ^ 16 then some (BitVec.ofNat 16 n) else none
  | none => none

/-- The names of the registers (R22). -/
def Reg.name : Reg → List Char
  | .cmd => ['C', 'M', 'D']
  | .ctrl => ['C', 'T', 'R', 'L']
  | .err => ['E', 'R', 'R']
  | .esub => ['E', 'S', 'U', 'B']
  | .status => ['S', 'T', 'A', 'T', 'U', 'S']
  | .flags => ['F', 'L', 'A', 'G', 'S']
  | .rspAddr => ['R', 'S', 'P', '_', 'A', 'D', 'D', 'R']
  | .aAddr => ['A', '_', 'A', 'D', 'D', 'R']
  | .aInstr => ['A', '_', 'I', 'N', 'S', 'T', 'R']
  | .aReg => ['A', '_', 'R', 'E', 'G']
  | .aLen => ['A', '_', 'L', 'E', 'N']
  | .aCnt => ['A', '_', 'C', 'N', 'T']
  | .aIdx => ['A', '_', 'I', 'D', 'X']
  | .aSbit => ['A', '_', 'S', 'B', 'I', 'T']
  | .aWord => ['A', '_', 'W', 'O', 'R', 'D']
  | .aVal => ['A', '_', 'V', 'A', 'L']
  | .result => ['R', 'E', 'S', 'U', 'L', 'T']
  | .txlen => ['T', 'X', 'L', 'E', 'N']
  | .rxlen => ['R', 'X', 'L', 'E', 'N']
  | .srN => ['S', 'R', '_', 'N']
  | .srL => ['S', 'R', '_', 'L']
  | .srSize => ['S', 'R', '_', 'S', 'I', 'Z', 'E']
  | .srRawlen => ['S', 'R', '_', 'R', 'A', 'W', 'L', 'E', 'N']
  | .srCur => ['S', 'R', '_', 'C', 'U', 'R']

/-- The names of the buffers, which are the SPACE names (R100, R105). -/
def Buf.name : Buf → List Char
  | .hbuf => ['H', 'B', 'U', 'F']
  | .txbuf => ['T', 'X', 'B', 'U', 'F']
  | .rxbuf => ['R', 'X', 'B', 'U', 'F']
  | .srbuf => ['S', 'R', 'B', 'U', 'F']
  | .pkt => ['P', 'K', 'T']

/-- The mnemonics of the commands (R95). -/
def Instr.commandNames : List (List Char × Instr) :=
  [(['N', 'O', 'P'], .nop), (['C', 'K', 'S', 'U', 'M'], .cksum), (['E', 'N', 'C', 'O', 'D', 'E'], .encode),
    (['D', 'E', 'C', 'O', 'D', 'E'], .decode), (['S', 'E', 'N', 'D'], .send),
    (['F', 'L', 'U', 'S', 'H', '_', 'R', 'X'], .flushRx), (['R', 'E', 'C', 'V'], .recv),
    (['X', 'A', 'C', 'T'], .xact), (['S', 'R', '_', 'B', 'E', 'G', 'I', 'N'], .srBegin)] ++
  [(['S', 'R', '_', 'X', 'F', 'E', 'R'], .srXfer), (['S', 'R', '_', 'E', 'X', 'T', 'R', 'A', 'C', 'T'], .srExtract),
    (['S', 'R', '_', 'N', 'E', 'X', 'T', '_', 'B', 'Y', 'T', 'E'], .srNextByte),
    (['S', 'R', '_', 'N', 'E', 'X', 'T', '_', 'W', 'O', 'R', 'D'], .srNextWord),
    (['S', 'R', '_', 'E', 'N', 'D'], .srEnd), (['H', '2', 'B'], .h2b), (['B', '2', 'H'], .b2h),
    (['S', 'M', '_', 'D', 'E', 'C'], .smDec), (['S', 'M', '_', 'E', 'N', 'C'], .smEnc)]

/-- The register with a name. -/
def Reg.ofName? (cs : List Char) : Option Reg := Reg.all.find? (fun r => decide (r.name = cs))

/-- The buffer with a name. -/
def Buf.ofName? (cs : List Char) : Option Buf :=
  [Buf.hbuf, .txbuf, .rxbuf, .srbuf, .pkt].find? (fun b => decide (b.name = cs))

/-- The command with a mnemonic. -/
def Instr.ofCommandName? (cs : List Char) : Option Instr := Instr.commandNames.lookup cs

/-- A mark that is one character by itself. -/
def asmMark? (c : Char) : Option AsmToken :=
  if c = ',' then some .comma
  else if c = '[' then some .openBracket
  else if c = ']' then some .closeBracket
  else if c.toNat = 123 then some .openBrace
  else if c.toNat = 125 then some .closeBrace
  else none

/-- Whether a character only separates. -/
def asmBlank (c : Char) : Bool := decide (c = ' ') || decide (c.toNat = 9) || decide (c.toNat = 13)

/-- The characters of a name collected so far (last first), as a token in front of the others. -/
def asmFlush (acc : List Char) (ts : List AsmToken) : List AsmToken :=
  if acc = [] then ts else .name acc.reverse :: ts

/-- The tokens of a line; `;` starts a comment (R105). `acc` holds the name being read, last character first. -/
def asmTokens : List Char → List Char → List AsmToken
  | acc, [] => asmFlush acc []
  | acc, c :: cs =>
    if c = ';' then asmFlush acc []
    else if asmBlank c then asmFlush acc (asmTokens [] cs)
    else
      match asmMark? c with
      | some m => asmFlush acc (m :: asmTokens [] cs)
      | none => asmTokens (c :: acc) cs

/-- A list of numbers, each after a comma. -/
def asmMoreWords? : List AsmToken → Option (List Word)
  | [] => some []
  | .comma :: .name n :: ts =>
    match word? n, asmMoreWords? ts with
    | some v, some vs => some (v :: vs)
    | _, _ => none
  | _ => none

/-- A list of numbers with commas between. -/
def asmWords? : List AsmToken → Option (List Word)
  | .name n :: ts =>
    match word? n, asmMoreWords? ts with
    | some v, some vs => some (v :: vs)
    | _, _ => none
  | _ => none

/-- The records of `syncwrite`: each a braced list of numbers after a comma (R106). `open?` holds the record being
read, last number first, when the reading is inside one. A line with no record is read as an empty list, so `A_CNT = 0`;
a record with nothing in it is no record (DESIGN CHOICE, log 11). -/
def asmRecords? : Option (List Word) → List AsmToken → Option (List (List Word))
  | none, [] => some []
  | none, .comma :: .openBrace :: .name n :: ts =>
    match word? n with
    | some v => asmRecords? (some [v]) ts
    | none => none
  | some acc, .comma :: .name n :: ts =>
    match word? n with
    | some v => asmRecords? (some (v :: acc)) ts
    | none => none
  | some acc, .closeBrace :: ts => (asmRecords? none ts).map (acc.reverse :: ·)
  | _, _ => none

/-- The pseudo-instructions whose operands are a list of numbers (R106). `write` and `bwrite` with no data, and `srxfer`
with no address, are read as lines with an empty list (DESIGN CHOICE, log 11). -/
def asmPseudo? (m : List Char) (vs : List Word) : Option AsmLine :=
  match vs with
  | [a] =>
    if m = ['p', 'i', 'n', 'g'] then some (.ping a)
    else if m = ['b', 't', 'r', 'i', 'g', 'g', 'e', 'r'] then some (.btrigger a)
    else if m = ['s', 'r', 'e', 'x', 't', 'r', 'a', 'c', 't'] then some (.srextract a)
    else if m = ['s', 'e', 't', 'e', 'n', 'd'] then some (.setend a)
    else if m = ['s', 'r', 'x', 'f', 'e', 'r'] then some (.srxfer a [])
    else none
  | a :: r :: data =>
    if m = ['w', 'r', 'i', 't', 'e'] then some (.write a r data)
    else if m = ['b', 'w', 'r', 'i', 't', 'e'] then some (.bwrite a r data)
    else if m = ['s', 'r', 'x', 'f', 'e', 'r'] then some (.srxfer a (r :: data))
    else if m = ['s', 'r', 'b', 'e', 'g', 'i', 'n'] ∧ data = [] then some (.srbegin a r)
    else
      match data with
      | [n] => if m = ['r', 'e', 'a', 'd'] then some (.read a r n) else none
      | _ => none
  | [] => none

/-- The line that a list of tokens stands for; none when it has no form of R105 or R106. -/
def asmParse? (ts : List AsmToken) : Option AsmLine :=
  match ts with
  | [.name ['w', 'r'], .name r, .comma, .name v] =>
    match Reg.ofName? r, word? v with
    | some r, some v => some (.wr r v)
    | _, _ => none
  | [.name ['r', 'd'], .name r] => (Reg.ofName? r).map .rd
  | [.name ['w', 'b'], .name b, .openBracket, .name i, .closeBracket, .comma, .name v] =>
    match index? i, word? v with
    | some i, some v => if b = Buf.hbuf.name then some (.wb i v) else none
    | _, _ => none
  | [.name ['r', 'b'], .name b, .openBracket, .name i, .closeBracket] =>
    match Buf.ofName? b, index? i with
    | some b, some i => some (.rb b i)
    | _, _ => none
  | [.name ['c', 'm', 'd'], .name m] => (Instr.ofCommandName? m).map .cmd
  | .name ['s', 'y', 'n', 'c', 'w', 'r', 'i', 't', 'e'] :: .name r :: .comma :: .name l :: rest =>
    match word? r, word? l, asmRecords? none rest with
    | some r, some l, some records => some (.syncwrite r l records)
    | _, _, _ => none
  | .name m :: rest =>
    match asmWords? rest with
    | some vs => asmPseudo? m vs
    | none => none
  | _ => none

/-- The words of one line of text: none for a line that is no line of R105 or R106; no word for a blank or comment
line. -/
def assembleText? (line : List Char) : Option (List HostWord) :=
  match asmTokens [] line with
  | [] => some []
  | ts => (asmParse? ts).map AsmLine.words

end Sys2Proof
end

