-- ==== Sys2Proof/Safety.lean ====
section
/-! DEFINITION. What claims are stated in: the refusal clauses of R103, the host words that the spec writes out, the
frame tables of R80, R88, R91, R132 and R259 written from the rules and not from the machine, the invariants every step keeps (R55 and the canonical form of the
buffers), reachable states, and a safe step. -/

namespace Sys2Proof.Machine

/-- KIND of a host word, bits 63:62 (R100). -/
def kindOf (w : HostWord) : Nat := w.toNat / 2 ^ 62

/-- SPACE of a host word, bits 61:59 (R100). -/
def spaceOf (w : HostWord) : Nat := w.toNat / 2 ^ 59 % 2 ^ 3

/-- The reserved bits 58:48 of a host word (R100). -/
def reservedOf (w : HostWord) : Nat := w.toNat / 2 ^ 48 % 2 ^ 11

/-- INDEX of a host word, bits 47:32 (R100). -/
def indexOf (w : HostWord) : Nat := w.toNat / 2 ^ 32 % 2 ^ 16

/-- VALUE of a host word, bits 31:0 (R100). -/
def valueOf (w : HostWord) : Nat := w.toNat % 2 ^ 32

/-- The size of the space with a SPACE code (R102). -/
def spaceSize (cap space : Nat) : Nat :=
  if space = 0 then 24 else if space = 1 then 256 else if space = 2 then 255 else if space = 3 then 255
  else if space = 4 then cap else if space = 5 then 249 else 0

/-- The width of the register with a number, from the table of R22. -/
def registerWidth (r : Nat) : Nat :=
  if r = 14 ∨ r = 21 ∨ r = 22 then 16 else if r = 15 ∨ r = 16 then 32 else 8

/-- R103: a host word that the block refuses, clause by clause, written from the rule and not from the decoder. -/
def RefusedWord (cap : Nat) (w : HostWord) : Prop :=
  (reservedOf w ≠ 0 ∨ spaceOf w = 6 ∨ spaceOf w = 7) ∨
  ((kindOf w = 0 ∨ kindOf w = 1) ∧ spaceOf w ≠ 0 ∨ (kindOf w = 2 ∨ kindOf w = 3) ∧ spaceOf w = 0) ∨
  (kindOf w = 2 ∧ spaceOf w ≠ 1) ∨
  spaceSize cap (spaceOf w) ≤ indexOf w ∨
  ((kindOf w = 1 ∨ kindOf w = 3) ∧ valueOf w ≠ 0) ∨
  (kindOf w = 0 ∧ (2 ≤ indexOf w ∧ indexOf w ≤ 6 ∨ 16 ≤ indexOf w ∧ indexOf w ≤ 23)) ∨
  (kindOf w = 0 ∧ 2 ^ registerWidth (indexOf w) ≤ valueOf w) ∨
  (kindOf w = 2 ∧ 0xFF < valueOf w) ∨
  (kindOf w = 0 ∧ (indexOf w = 1 ∧ 2 ≤ valueOf w ∨ indexOf w = 13 ∧ valueOf w / 16 % 8 ≠ 0))

/-! ### Words that the spec writes out -/

/-- The host words that write `CMD` (R105; 95_test_vectors.md sections 7 and 8), each with the
transaction of its line. -/
def specCommandWords : List (HostWord × HostTxn) :=
  [(0x0000000000000000, .regWrite .cmd 0x00), (0x0000000000000002, .regWrite .cmd 0x02),
    (0x0000000000000003, .regWrite .cmd 0x03), (0x0000000000000004, .regWrite .cmd 0x04),
    (0x0000000000000005, .regWrite .cmd 0x05), (0x0000000000000006, .regWrite .cmd 0x06),
    (0x0000000000000007, .regWrite .cmd 0x07), (0x0000000000000008, .regWrite .cmd 0x08),
    (0x0000000000000010, .regWrite .cmd 0x10), (0x0000000000000011, .regWrite .cmd 0x11),
    (0x0000000000000012, .regWrite .cmd 0x12), (0x0000000000000013, .regWrite .cmd 0x13),
    (0x0000000000000014, .regWrite .cmd 0x14), (0x0000000000000015, .regWrite .cmd 0x15),
    (0x0000000000000020, .regWrite .cmd 0x20), (0x0000000000000021, .regWrite .cmd 0x21),
    (0x0000000000000023, .regWrite .cmd 0x23), (0x00000000000000FF, .regWrite .cmd 0xFF)]

/-- The host words that write another register (R105; 95_test_vectors.md sections 7 and 8), each with the
transaction of its line. -/
def specRegisterWords : List (HostWord × HostTxn) :=
  [(0x0000000100000001, .regWrite .ctrl 1), (0x0000000700000001, .regWrite .aAddr 0x01),
    (0x0000000700000002, .regWrite .aAddr 0x02), (0x0000000700000003, .regWrite .aAddr 0x03),
    (0x0000000700000004, .regWrite .aAddr 0x04), (0x00000007000000FE, .regWrite .aAddr 0xFE),
    (0x0000000800000001, .regWrite .aInstr 0x01), (0x0000000800000002, .regWrite .aInstr 0x02),
    (0x0000000800000003, .regWrite .aInstr 0x03), (0x0000000800000005, .regWrite .aInstr 0x05),
    (0x0000000800000083, .regWrite .aInstr 0x83), (0x000000090000002A, .regWrite .aReg 0x2A),
    (0x0000000900000038, .regWrite .aReg 0x38), (0x0000000A00000000, .regWrite .aLen 0),
    (0x0000000A00000002, .regWrite .aLen 2), (0x0000000A00000006, .regWrite .aLen 6),
    (0x0000000B00000002, .regWrite .aCnt 2), (0x0000000B00000003, .regWrite .aCnt 3),
    (0x0000000C00000000, .regWrite .aIdx 0), (0x0000000D0000008F, .regWrite .aSbit 0x8F),
    (0x0000000E00008064, .regWrite .aWord 0x8064), (0x0000000FFFFFFF9C, .regWrite .aVal 0xFFFFFF9C)]

/-- The host words that read a register or access a buffer (R105; 95_test_vectors.md sections 7 and 8), each with the
transaction of its line. -/
def specOtherWords : List (HostWord × HostTxn) :=
  [(0x4000000200000000, .regRead .err), (0x4000000400000000, .regRead .status),
    (0x4000001000000000, .regRead .result), (0x8800000000000001, .bufWrite 0 0x01),
    (0x8800000100000002, .bufWrite 1 0x02), (0x88000001000000E8, .bufWrite 1 0xE8),
    (0x8800000200000003, .bufWrite 2 0x03), (0x8800000300000002, .bufWrite 3 0x02),
    (0x88000004000000D0, .bufWrite 4 0xD0), (0x8800000500000007, .bufWrite 5 0x07),
    (0xC800000000000000, .bufRead .hbuf 0), (0xC800000100000000, .bufRead .hbuf 1),
    (0xD000000600000000, .bufRead .txbuf 6), (0xD800000400000000, .bufRead .rxbuf 4)]

/-- Every host word that R105 and sections 7 and 8 of 95_test_vectors.md write out, but for the refused ones. -/
def specHostWords : List (HostWord × HostTxn) := specCommandWords ++ specRegisterWords ++ specOtherWords

/-- The host words that section 7 of 95_test_vectors.md writes out as refused, G-4 to G-13. -/
def specRefusedWords : List HostWord :=
  [0x0000000200000001, 0x0000000100000002, 0x0000000D00000010, 0x0000000700000100, 0x9000000000000001,
    0xC800010000000000, 0x4000001800000000, 0x4000000200000001, 0x0001000700000001, 0xF000000000000000]

/-! ### Bytes and frames as the rules write them -/

/-- A possible reading of `BUF[i .. i+n-1]`: a specified byte as it stands, any value for an unspecified one (R104). -/
def Memory.Reads (m : Memory) (i n : Nat) (bytes : List Byte) : Prop :=
  bytes.length = n ∧ ∀ j v, j < n → m.load (i + j) = some v → bytes[j]? = some v

/-- A buffer holds a byte list from index 0 on, every byte of it specified. -/
def Memory.Holds (m : Memory) (bytes : List Byte) : Prop := ∀ j, j < bytes.length → m.load j = bytes[j]?

/-- `CHK` as R14 writes it: 255 less the byte sum modulo 256 is the bitwise NOT of it. -/
def wireChecksum (bytes : List Byte) : Byte := BitVec.ofNat 8 (255 - (bytes.map BitVec.toNat).sum % 256)

/-- The frame of R80 (a request) and R83 (a response, with the status in the place of the code). -/
def wireFrame (a c : Byte) (p : List Byte) : List Byte :=
  [0xFF, 0xFF, a, BitVec.ofNat 8 (p.length + 2), c] ++ p ++
    [wireChecksum ([a, BitVec.ofNat 8 (p.length + 2), c] ++ p)]

/-- The first check a request fails, as its ESUB code under INVALID_PARAM, in the order of R124 to R130 and R259. -/
def requestFailure (op : WireOp) (s : State) : Option Byte :=
  let n := s.aLen.toNat
  let count := s.aCnt.toNat
  let checks : List (Bool × Byte) :=
    match op with
    | .ping | .btrigger => []
    | .read => [(decide (s.aAddr = 0xFE), 0x02), (decide (n > 249), 0x01)]
    | .write | .bwrite => [(decide (n > 248), 0x01)]
    | .syncread => [(decide (count = 0), 0x03), (decide (count > 247), 0x01), (decide (n > 249), 0x01)]
    | .syncwrite => [(decide (count = 0), 0x03), (decide (count * (n + 1) > 247), 0x01)]
  (checks.find? (fun c => c.1)).map (fun c => c.2)

/-- The address of a request (R88). -/
def requestAddress (op : WireOp) (s : State) : Byte :=
  match op with
  | .ping | .read | .write | .bwrite | .btrigger => s.aAddr
  | .syncread | .syncwrite => 0xFE

/-- The parameter bytes of a request, from the table of R88. -/
def RequestParams (op : WireOp) (s : State) (p : List Byte) : Prop :=
  match op with
  | .ping | .btrigger => p = []
  | .read => p = [s.aReg, s.aLen]
  | .write | .bwrite => ∃ d, s.hbuf.Reads 0 s.aLen.toNat d ∧ p = s.aReg :: d
  | .syncread => ∃ ids, s.hbuf.Reads 0 s.aCnt.toNat ids ∧ p = s.aReg :: s.aLen :: ids
  | .syncwrite => ∃ d, s.hbuf.Reads 0 (s.aCnt.toNat * (s.aLen.toNat + 1)) d ∧ p = s.aReg :: s.aLen :: d

/-- How many data bytes the response to a request has; none where no response is expected (R91). -/
def responseLength (op : WireOp) (s : State) : Option Nat :=
  match op with
  | .ping => some 0
  | .read => some s.aLen.toNat
  | .write | .bwrite | .btrigger => if s.aAddr = 0xFE then none else some 0
  | .syncread | .syncwrite => none

/-- The checks of R132 in their order, each with the ERR and ESUB code of its failure (R250, R251, R259). -/
def responseChecks (r : List Byte) (a : Byte) (n : Nat) (i : Byte) : List (Bool × Byte × Byte) :=
  [(decide (n > 249), 0x04, 0x01),
    (decide (r.length < n + 6), 0x01, 0x00),
    (decide (r.length > n + 6), 0x02, 0x05),
    (decide (r[0]? ≠ some 0xFF ∨ r[1]? ≠ some 0xFF), 0x02, 0x01),
    (decide (¬ (i = 0x01 ∧ a = 0xFE) ∧ r[2]? ≠ some a), 0x02, 0x02),
    (decide (r[3]? ≠ some (BitVec.ofNat 8 (n + 2))), 0x02, 0x03),
    (decide (r[n + 5]? ≠ some (wireChecksum ((r.drop 2).take (n + 3)))), 0x02, 0x04)]

/-- The first check a response fails, as its ERR and ESUB codes. -/
def responseFailure (r : List Byte) (a : Byte) (n : Nat) (i : Byte) : Option (Byte × Byte) :=
  ((responseChecks r a n i).find? (fun c => c.1)).map (fun c => c.2)

/-- What `Decode` leaves of a state whose response `r` has been received (R131, R132): on success the status, the
address and the data are taken, on failure `SV = 0`, `RESULT = 0` and, but for INVALID_PARAM, the data unspecified. -/
def decodeEffect (r : List Byte) (a : Byte) (n : Nat) (i : Byte) (s : State) : State :=
  match responseFailure r a n i with
  | none =>
    { s with
      status := r.getD 4 0, sv := true, rspAddr := r.getD 2 0, hbuf := s.hbuf.write 0 ((r.drop 5).take n),
      result := BitVec.ofNat 32 n, err := 0x00, esub := 0x00 }
  | some (e, sub) =>
    { s with
      sv := false, result := 0, err := e, esub := sub,
      hbuf := if e = 0x04 then s.hbuf else s.hbuf.forget n }

/-- The errors an instruction may leave, as ERR and ESUB codes (the last column of R250, and R251). A wire instruction
is the transaction of XACT (R86), SyncRead that of SR_XFER. -/
def mayRaise : Instr → List (Byte × Byte)
  | .nop | .cksum | .send | .flushRx | .recv | .smDec | .srEnd => []
  | .encode => [(4, 1), (4, 2), (4, 3), (4, 6)]
  | .decode => [(4, 1), (1, 0), (2, 5), (2, 1), (2, 2), (2, 3), (2, 4)]
  | .xact => [(4, 1), (4, 2), (4, 3), (4, 6), (1, 0), (2, 1), (2, 2), (2, 3), (2, 4)]
  | .ping | .btrigger => [(1, 0), (2, 1), (2, 2), (2, 3), (2, 4)]
  | .read => [(4, 1), (4, 2), (1, 0), (2, 1), (2, 2), (2, 3), (2, 4)]
  | .write | .bwrite => [(4, 1), (1, 0), (2, 1), (2, 2), (2, 3), (2, 4)]
  | .syncwrite => [(4, 1), (4, 3)]
  | .srXfer | .syncread => [(6, 1), (4, 3), (4, 1)]
  | .srBegin => [(6, 2), (4, 3), (4, 1), (3, 0)]
  | .srExtract => [(6, 1), (2, 6), (2, 7), (2, 4)]
  | .srNextByte | .srNextWord => [(7, 0)]
  | .h2b | .b2h => [(4, 4)]
  | .smEnc => [(4, 5)]

/-- Every register but the listed ones reads as before. -/
def RegsKept (except : List Reg) (s t : State) : Prop := ∀ r, r ∉ except → t.reg r = s.reg r

/-- Every byte of every buffer is as before. -/
def BuffersKept (s t : State) : Prop := ∀ b i, (t.buf b).load i = (s.buf b).load i

/-- Every byte of every buffer but the first `n` of one is as before. -/
def BuffersKeptOutside (b : Buf) (n : Nat) (s t : State) : Prop :=
  ∀ b' i, b' ≠ b ∨ n ≤ i → (t.buf b').load i = (s.buf b').load i

/-- The streams and what is still to come from outside are as before. -/
def StreamsKept (s t : State) : Prop :=
  t.txout = s.txout ∧ t.rxq = s.rxq ∧ t.draws = s.draws

/-- The session is as before: its flags, its registers, the raw buffer and the packet (R190). -/
def SessionUntouched (s t : State) : Prop :=
  t.sra = s.sra ∧ t.pv = s.pv ∧ t.srN = s.srN ∧ t.srL = s.srL ∧ t.srSize = s.srSize ∧ t.srRawlen = s.srRawlen ∧
  t.srCur = s.srCur ∧ t.srbuf = s.srbuf ∧ t.pkt = s.pkt

/-- What no instruction touches: the capacity, what the host has read and what it has yet to issue. -/
def OutsideKept (s t : State) : Prop :=
  t.srBufCap = s.srBufCap ∧ t.hostReads = s.hostReads ∧ t.inputs = s.inputs

/-! ### Invariants and runs -/

/-- The buffers are in canonical form and inside their sizes (R47 to R51). -/
def State.BuffersCanonical (s : State) : Prop :=
  s.hbuf.wf 256 ∧ s.txbuf.wf 255 ∧ s.rxbuf.wf 255 ∧ s.srbuf.wf s.srBufCap.toNat ∧ s.pkt.wf 249

/-- The session invariants of R55. -/
def State.SessionInvariant (s : State) : Prop :=
  (s.sra = false →
    s.srN = 0 ∧ s.srL = 0 ∧ s.srSize = 0 ∧ s.srRawlen = 0 ∧ s.srCur = 0 ∧ s.pv = false) ∧
  (s.sra = true →
    1 ≤ s.srN.toNat ∧ s.srL.toNat ≤ 249 ∧ s.srSize.toNat = s.srN.toNat * (s.srL.toNat + 6) ∧
    s.srSize.toNat ≤ s.srBufCap.toNat ∧ s.srRawlen.toNat ≤ s.srSize.toNat ∧ s.srCur.toNat ≤ s.srL.toNat)

/-- The reserved bits of CTRL and A_SBIT are 0 (R24, R36). -/
def State.ReservedClear (s : State) : Prop := s.ctrl &&& 0xFE = 0 ∧ s.aSbit &&& 0x70 = 0

/-- `ERR` and `ESUB` hold OK or one of the pairs of R250 and R251. -/
def State.ErrorLegal (s : State) : Prop :=
  (s.err = 0 ∧ s.esub = 0) ∨ ∃ c : Cause, s.err = c.code ∧ s.esub = c.sub

/-- Every byte that a length register calls valid is specified, outside `HBUF` (R48 to R51, R104). -/
def State.ValidPartSpecified (s : State) : Prop :=
  ∀ b i, b ≠ Buf.hbuf → s.inValidPart b i = true → ∃ v, (s.buf b).load i = some v

/-- What every step keeps, from any state in which it holds. -/
structure State.Inv (s : State) : Prop where
  canonical : s.BuffersCanonical
  session : s.SessionInvariant
  reserved : s.ReservedClear
  error : s.ErrorLegal
  specified : s.ValidPartSpecified

/-- The states of a run: from reset, by steps, the outside choosing anew at any point what comes next (R19, R54). -/
inductive Reachable : State → Prop
  | reset : Reachable State.reset
  | step {s t : State} : Reachable s → Machine.step s = .next t → Reachable t
  | outside {s : State} (inputs : List Input) (draws : List (List Byte)) :
    Reachable s → Reachable { s with inputs := inputs, draws := draws }

/-- A step is safe when it has a next state: the block has no fault, and a program that is correct under the spec causes
no refusal (R267). -/
def SafeStep (s : State) : Prop := ∃ t, step s = .next t

end Sys2Proof.Machine
end

