-- ==== Sys2Proof/Certificates/Slice0/Obligations.lean ====
section
/-! DEFINITION. The statements for the provers. A `drawCount := k` under "there is k" says that the counter of the free
values may have moved: no statement rests on a free value. -/

open Sys2Proof Sys2Proof.Machine

/-! ### Encodings and the step -/

/-- R100 to R103: a well-formed host transaction comes back from its own word, for every register, index and value and
for every `SR_BUF_CAP`. -/
def Obligations.HostWordDecodesToItsTransaction : Prop :=
  ∀ (cap : Nat) (t : HostTxn), t.wf cap = true → decodeWord cap (encodeTxn t) = .ok t

/-- R100 to R103: a host word the block accepts is the word of the transaction it stands for, and that transaction is
well formed: no two words mean the same, and no bit of a word is ignored. -/
def Obligations.AcceptedHostWordHasOneMeaning : Prop :=
  ∀ (cap : Nat) (w : HostWord) (t : HostTxn), decodeWord cap w = .ok t → t.wf cap = true ∧ encodeTxn t = w

/-- Every host word that R105 and sections 7 and 8 of 95_test_vectors.md write out decodes to the transaction it stands
for (with `SR_BUF_CAP = 64`, as in Program 3), or is refused where section 7 says so; every wire code of R86 and every
command code of R95 decodes as a row of the opcode table; and each row decodes from the model's own encoding of it. -/
def Obligations.SpecWordsDecode : Prop :=
  (∀ p ∈ specHostWords, decodeWord 64 p.1 = .ok p.2) ∧
  (∀ w ∈ specRefusedWords, ∀ t, decodeWord 64 w ≠ .ok t) ∧
  (∀ p ∈ ([(0x01, .ping), (0x02, .read), (0x03, .write), (0x04, .bwrite), (0x05, .btrigger), (0x82, .syncread),
      (0x83, .syncwrite)] : List (Nat × Instr)), decodeTableWord 8 p.1 = some p.2) ∧
  (∀ p ∈ ([(0x00, .nop), (0x01, .cksum), (0x02, .encode), (0x03, .decode), (0x04, .send), (0x05, .flushRx),
      (0x06, .recv), (0x07, .xact), (0x10, .srBegin), (0x11, .srXfer), (0x12, .srExtract), (0x13, .srNextByte),
      (0x14, .srNextWord), (0x15, .srEnd), (0x20, .h2b), (0x21, .b2h), (0x22, .smDec), (0x23, .smEnc)]
      : List (Nat × Instr)), decodeTableWord 64 p.1 = some p.2) ∧
  ∀ i : Instr, decodeTableWord (encode i).1 (encode i).2 = some i

/-- R96, R239, R256: the illegal codes are the three ranges, and writing one to `CMD` raises ILLEGAL_CMD and changes
nothing else: `RESULT`, every other register, buffer and stream are as before. -/
def Obligations.IllegalCommandCodes : Prop :=
  (∀ c : Byte, Instr.ofCommand? c = none ↔
    (0x08 ≤ c.toNat ∧ c.toNat ≤ 0x0F) ∨ (0x16 ≤ c.toNat ∧ c.toNat ≤ 0x1F) ∨ 0x24 ≤ c.toNat) ∧
  ∀ (s : State) (c : Byte) (rest : List Input),
    (0x08 ≤ c.toNat ∧ c.toNat ≤ 0x0F) ∨ (0x16 ≤ c.toNat ∧ c.toNat ≤ 0x1F) ∨ 0x24 ≤ c.toNat →
    s.inputs = .transaction (BitVec.ofNat 64 c.toNat) :: rest →
    step s = .next { s with inputs := rest, cmd := c, err := 0x05, esub := 0x00 }

/-- R103: a host transaction has no step exactly when one of the clauses (a) to (i) holds; otherwise it has one. -/
def Obligations.RefusedExactlyByTheClauses : Prop :=
  ∀ (s : State) (w : HostWord) (rest : List Input), s.inputs = .transaction w :: rest →
    (RefusedWord s.srBufCap.toNat w → ∃ why, step s = .refused (.hostTransaction why)) ∧
    (¬ RefusedWord s.srBufCap.toNat w → ∃ t, step s = .next t)

/-- R95: a host write of a listed code to `CMD` runs the command, with the code in `CMD` (R23) and the transaction
issued. -/
def Obligations.CommandCodeRunsItsCommand : Prop :=
  ∀ (s : State) (rest : List Input) (c : Byte) (i : Instr),
    (c, i) ∈ ([(0x00, .nop), (0x01, .cksum), (0x02, .encode), (0x03, .decode), (0x04, .send), (0x05, .flushRx),
      (0x06, .recv), (0x07, .xact), (0x10, .srBegin), (0x11, .srXfer), (0x12, .srExtract), (0x13, .srNextByte),
      (0x14, .srNextWord), (0x15, .srEnd), (0x20, .h2b), (0x21, .b2h), (0x22, .smDec), (0x23, .smEnc)]
        : List (Byte × Instr)) →
    s.inputs = .transaction (BitVec.ofNat 64 c.toNat) :: rest →
    step s = exec i { s with inputs := rest, cmd := c }

/-- R86, R170, R192 (the model's reading of the wire rows, log 8): XACT with a wire code in `A_INSTR` is that wire
instruction; SyncRead's transaction is SR_XFER; and an opcode-table row stored by `withFetchWord` is what the next step
runs (log 13). -/
def Obligations.WireInstructionIsItsTransaction : Prop :=
  (∀ (s : State) (i : Instr),
    (s.aInstr, i) ∈ ([(0x01, .ping), (0x02, .read), (0x03, .write), (0x04, .bwrite), (0x05, .btrigger),
      (0x83, .syncwrite)] : List (Byte × Instr)) → exec .xact s = exec i s) ∧
  (∀ s : State, exec .syncread s = exec .srXfer s) ∧
  (∀ (s : State) (i : Instr), ∃ a c : Byte,
    step (s.withFetchWord (encode i).1 (encode i).2) = exec i { s with aInstr := a, cmd := c })

/-- R54 and R284: an arrival is appended to `RXQ` and nothing else changes; with nothing pending the block waits (that
waiting is a step that changes nothing is the model's choice, log 1). -/
def Obligations.ArrivalsAppendAndTheBlockWaits : Prop :=
  (∀ (s : State) (bytes : List Byte) (rest : List Input), s.inputs = .arrival bytes :: rest →
    step s = .next { s with inputs := rest, rxq := s.rxq ++ bytes }) ∧
  ∀ s : State, s.inputs = [] → step s = .next s

/-- R67 and R101: a register write other than to `CMD` only stores the value; a write to `HBUF` only stores the byte; a
read changes nothing of the block and returns the register, or the byte where R104 does not leave it unspecified; a
read of `STATUS` while `SV = 0` returns some value (R27). -/
def Obligations.HostAccessesOnlyStoreOrRead : Prop :=
  ∀ (s : State) (w : HostWord) (rest : List Input) (t : HostTxn),
    s.inputs = .transaction w :: rest → decodeWord s.srBufCap.toNat w = .ok t →
    match t with
    | .regWrite r v =>
      r ≠ .cmd → ∃ u, step s = .next u ∧ u.reg r = v ∧ RegsKept [r] s u ∧ BuffersKept s u ∧ StreamsKept s u ∧
        u.srBufCap = s.srBufCap ∧ u.hostReads = s.hostReads ∧ u.inputs = rest
    | .regRead r =>
      ∃ v k, (r ≠ .status ∨ s.sv = true → v = s.reg r) ∧
        step s = .next { s with inputs := rest, hostReads := s.hostReads ++ [v], drawCount := k }
    | .bufWrite i v =>
      ∃ u, step s = .next u ∧ u.byteAt .hbuf i.toNat = some v ∧
        (∀ b j, (b, j) ≠ (Buf.hbuf, i.toNat) → (u.buf b).load j = (s.buf b).load j) ∧
        RegsKept [] s u ∧ StreamsKept s u ∧ u.srBufCap = s.srBufCap ∧ u.hostReads = s.hostReads ∧ u.inputs = rest
    | .bufRead b i =>
      ∃ (v : Byte) (k : Nat), (∀ x, s.byteAt b i.toNat = some x → v = x) ∧
        step s = .next { s with inputs := rest, hostReads := s.hostReads ++ [v.setWidth 32], drawCount := k }

/-- R105, R106: the lines of a host program: a transaction form is one word, and a pseudo-instruction is the words of the
lines it stands for, in order, for every operand and list. What an empty list and a list of more than 65536 entries
stand for is the model's choice (log 11). -/
def Obligations.PseudoInstructionsExpand : Prop :=
  (∀ (r : Reg) (v : Word), (AsmLine.wr r v).words = [packHostWord 0 0 r.number v.toNat]) ∧
  (∀ r : Reg, (AsmLine.rd r).words = [packHostWord 1 0 r.number 0]) ∧
  (∀ (i : Half) (v : Word), (AsmLine.wb i v).words = [packHostWord 2 1 i.toNat v.toNat]) ∧
  (∀ (b : Buf) (i : Half), (AsmLine.rb b i).words = [packHostWord 3 (Space.buf b).code i.toNat 0]) ∧
  (∀ (i : Instr) (c : Byte), i.commandCode? = some c →
    (AsmLine.cmd i).words = (AsmLine.wr .cmd (c.setWidth 32)).words) ∧
  (∀ a : Word, assemble [.ping a] = assemble [.wr .aInstr 0x01, .wr .aAddr a, .cmd .xact]) ∧
  (∀ a r n : Word, assemble [.read a r n] =
    assemble [.wr .aInstr 0x02, .wr .aAddr a, .wr .aReg r, .wr .aLen n, .cmd .xact]) ∧
  (∀ (a r : Word) (data : List Word), assemble [.write a r data] =
    assemble (data.mapIdx (fun j b => .wb (BitVec.ofNat 16 j) b) ++
      [.wr .aInstr 0x03, .wr .aAddr a, .wr .aReg r, .wr .aLen (BitVec.ofNat 32 data.length), .cmd .xact])) ∧
  (∀ (a r : Word) (data : List Word), assemble [.bwrite a r data] =
    assemble (data.mapIdx (fun j b => .wb (BitVec.ofNat 16 j) b) ++
      [.wr .aInstr 0x04, .wr .aAddr a, .wr .aReg r, .wr .aLen (BitVec.ofNat 32 data.length), .cmd .xact])) ∧
  (∀ a : Word, assemble [.btrigger a] = assemble [.wr .aInstr 0x05, .wr .aAddr a, .cmd .xact]) ∧
  (∀ (r len : Word) (records : List (List Word)), assemble [.syncwrite r len records] =
    assemble (records.flatten.mapIdx (fun j b => .wb (BitVec.ofNat 16 j) b) ++
      [.wr .aInstr 0x83, .wr .aReg r, .wr .aLen len, .wr .aCnt (BitVec.ofNat 32 records.length), .cmd .xact])) ∧
  (∀ n len : Word, assemble [.srbegin n len] = assemble [.wr .aCnt n, .wr .aLen len, .cmd .srBegin]) ∧
  (∀ (r : Word) (ids : List Word), assemble [.srxfer r ids] =
    assemble (ids.mapIdx (fun j b => .wb (BitVec.ofNat 16 j) b) ++
      [.wr .aReg r, .wr .aCnt (BitVec.ofNat 32 ids.length), .cmd .srXfer])) ∧
  (∀ a : Word, assemble [.srextract a] = assemble [.wr .aAddr a, .cmd .srExtract]) ∧
  ∀ e : Word, assemble [.setend e] = assemble [.wr .ctrl e]

/-- R13: after `MemWrite(BUF, i, bytes)` the bytes stand where they were written and every other byte is as before, and
the buffer stays in canonical form; `BUF[j] <- ANY` for `j < n` leaves those unspecified and the rest as before. -/
def Obligations.BufferWritesReadBack : Prop :=
  (∀ (m : Memory) (i : Nat) (bytes : List Byte) (a : Nat),
    (m.write i bytes).load a = if i ≤ a ∧ a < i + bytes.length then bytes[a - i]? else m.load a) ∧
  (∀ (m : Memory) (n a : Nat), (m.forget n).load a = if a < n then none else m.load a) ∧
  ∀ (size : Nat) (m : Memory) (i : Nat) (bytes : List Byte), m.wf size → i + bytes.length ≤ size →
    (m.write i bytes).wf size

/-! ### The frame codec -/

/-- R122: CKSUM puts the checksum of `HBUF[0..n-1]` in `RESULT`, zero-extended, and ends OK, for every `n`. -/
def Obligations.CksumOfHostBytes : Prop :=
  ∀ s : State, ∃ bytes k, s.hbuf.Reads 0 s.aLen.toNat bytes ∧
    exec .cksum s = .next { s with
      result := BitVec.ofNat 32 (255 - (bytes.map BitVec.toNat).sum % 256), err := 0x00, esub := 0x00, drawCount := k }

/-- R123 to R130: ENCODE of an unlisted code raises BAD_INSTR; of a listed one it raises the first failing check of the
request, with `RESULT = 0` and nothing else changed, or builds the request's frame in `TXBUF`. -/
def Obligations.EncodeBuildsTheRequestFrame : Prop :=
  (∀ s : State, (∀ op : WireOp, s.aInstr ≠ op.code) →
    exec .encode s = .next { s with result := 0, err := 0x04, esub := 0x06 }) ∧
  ∀ (s : State) (op : WireOp), s.aInstr = op.code →
    (∀ sub, requestFailure op s = some sub →
      exec .encode s = .next { s with result := 0, err := 0x04, esub := sub }) ∧
    (requestFailure op s = none → ∃ p k, RequestParams op s p ∧ p.length ≤ 249 ∧
      exec .encode s = .next { s with
        txbuf := s.txbuf.write 0 (wireFrame (requestAddress op s) op.code p),
        txlen := BitVec.ofNat 8 (p.length + 6), result := BitVec.ofNat 32 (p.length + 6),
        err := 0x00, esub := 0x00, drawCount := k })

/-- R134: every frame that ENCODE or SR_XFER builds has `LEN = |f| - 4` in its byte 3, and a frame is what they leave in
`TXBUF[0..TXLEN-1]` when they end OK. -/
def Obligations.FrameLengthInvariant : Prop :=
  ∀ (i : Instr) (s t : State), i = .encode ∨ i = .srXfer → exec i s = .next t → t.err = 0x00 →
    6 ≤ t.txlen.toNat ∧ ∃ len : Byte, t.txbuf.load 3 = some len ∧ len.toNat = t.txlen.toNat - 4

/-- R131, R132: DECODE of `RXBUF[0..RXLEN-1]`: the checks in their order, the first failure reported, and the effects of
success and of failure. -/
def Obligations.DecodeChecksInOrder : Prop :=
  ∀ s : State, ∃ r k, s.rxbuf.Reads 0 s.rxlen.toNat r ∧
    exec .decode s = .next { decodeEffect r s.aAddr s.aLen.toNat s.aInstr s with drawCount := k }

/-- R133: a built frame in `RXBUF` decodes, for every instruction, to the address, the instruction byte as status, and
the parameter bytes. -/
def Obligations.FrameRoundTrip : Prop :=
  ∀ (s : State) (i : Byte) (p : List Byte), p.length ≤ 249 → s.aLen.toNat = p.length →
    s.rxlen.toNat = p.length + 6 → s.rxbuf.Holds (buildFrame s.aAddr i p) →
    ∃ t, exec .decode s = .next t ∧ t.err = 0x00 ∧ t.status = i ∧ t.sv = true ∧ t.rspAddr = s.aAddr ∧
      t.result = BitVec.ofNat 32 p.length ∧ ∀ j, j < p.length → t.byteAt .hbuf j = p[j]?

/-- R135: a response valid for another address fails with FRAMING(ADDRESS), unless the request was a broadcast Ping. -/
def Obligations.AddressDiscrimination : Prop :=
  ∀ (s : State) (b st : Byte) (data : List Byte), data.length ≤ 249 → s.aLen.toNat = data.length →
    s.rxlen.toNat = data.length + 6 → s.rxbuf.Holds (wireFrame b st data) → b ≠ s.aAddr →
    ¬ (s.aInstr = 0x01 ∧ s.aAddr = 0xFE) →
    ∃ t, exec .decode s = .next t ∧ t.err = 0x02 ∧ t.esub = 0x02 ∧ t.sv = false ∧ t.result = 0

/-- R136, with the header check of R132: DECODE of a valid response with one byte changed. A change of `r[0]` or `r[1]`
fails the header check; a change of `r[2]` fails the address check, or the checksum for a broadcast Ping's response; a
change of `r[3]` fails the length check; a change from `r[4]` on fails the checksum. Changes of status, data and
checksum (and of a broadcast Ping's address) that cancel in the sum are accepted. -/
def Obligations.SingleByteErrorsAreReported : Prop :=
  ∀ (s : State) (b st : Byte) (data r : List Byte), data.length ≤ 249 → s.aLen.toNat = data.length →
    s.rxlen.toNat = data.length + 6 → b = s.aAddr ∨ (s.aInstr = 0x01 ∧ s.aAddr = 0xFE) → s.rxbuf.Holds r →
    (∀ j v, j < 2 → v ≠ 0xFF → r = (wireFrame b st data).set j v →
      ∃ t, exec .decode s = .next t ∧ t.err = 0x02 ∧ t.esub = 0x01 ∧ t.sv = false ∧ t.result = 0) ∧
    (∀ j v, 4 ≤ j → j < data.length + 6 → (wireFrame b st data)[j]? ≠ some v →
      r = (wireFrame b st data).set j v →
      ∃ t, exec .decode s = .next t ∧ t.err = 0x02 ∧ t.esub = 0x04 ∧ t.sv = false ∧ t.result = 0) ∧
    (∀ v, v ≠ b → r = (wireFrame b st data).set 2 v →
      ∃ t, exec .decode s = .next t ∧ t.err = 0x02 ∧
        t.esub = (if s.aInstr = 0x01 ∧ s.aAddr = 0xFE then 0x04 else 0x02) ∧ t.sv = false ∧ t.result = 0) ∧
    (∀ v, v ≠ BitVec.ofNat 8 (data.length + 2) → r = (wireFrame b st data).set 3 v →
      ∃ t, exec .decode s = .next t ∧ t.err = 0x02 ∧ t.esub = 0x03 ∧ t.sv = false ∧ t.result = 0) ∧
    ∀ b' st' data' (chk chk' : Byte), b' = b ∨ (s.aInstr = 0x01 ∧ s.aAddr = 0xFE) → data'.length = data.length →
      (wireFrame b st data)[data.length + 5]? = some chk →
      (b'.toNat + st'.toNat + (data'.map BitVec.toNat).sum + chk'.toNat) % 256 =
        (b.toNat + st.toNat + (data.map BitVec.toNat).sum + chk.toNat) % 256 →
      r = [0xFF, 0xFF, b', BitVec.ofNat 8 (data.length + 2), st'] ++ data' ++ [chk'] →
      ∃ t, exec .decode s = .next t ∧ t.err = 0x00 ∧ t.status = st' ∧ t.rspAddr = b'

/-! ### Transactions -/

/-- R163 to R168: a request that a response answers. The frame is built, the queue flushed, the frame transmitted, then
at most `n + 6` of the bytes that arrive are taken, kept in `RXBUF` and decoded. For the wire instruction, and for XACT
with its code in `A_INSTR`. -/
def Obligations.AnsweredTransaction : Prop :=
  ∀ (s : State) (op : WireOp) (i : Instr) (n : Nat),
    i = op.instr ∨ (i = .xact ∧ s.aInstr = op.code) →
    requestFailure op s = none → responseLength op s = some n →
    ∃ p arrived k, RequestParams op s p ∧ (∀ a rest, s.draws = a :: rest → arrived = a) ∧
      exec i s = .next { decodeEffect (arrived.take (n + 6)) (requestAddress op s) n op.code { s with
        txbuf := s.txbuf.write 0 (wireFrame (requestAddress op s) op.code p),
        txlen := BitVec.ofNat 8 (p.length + 6),
        txout := s.txout ++ wireFrame (requestAddress op s) op.code p,
        rxbuf := s.rxbuf.write 0 (arrived.take (n + 6)),
        rxlen := BitVec.ofNat 8 (arrived.take (n + 6)).length,
        rxq := arrived.drop (n + 6),
        draws := s.draws.tail } with drawCount := k }

/-- R163, R166 to R169, R297: a request that nothing answers, a write-class request to `0xFE` or a SyncWrite: the frame is
transmitted, the queue flushed, nothing received, and the command ends OK with `SV = 0` and `RESULT = 0`. -/
def Obligations.SilentTransaction : Prop :=
  ∀ (s : State) (op : WireOp) (i : Instr),
    i = op.instr ∨ (i = .xact ∧ s.aInstr = op.code) → op ≠ .syncread →
    requestFailure op s = none → responseLength op s = none →
    ∃ p k, RequestParams op s p ∧
      exec i s = .next { s with
        txbuf := s.txbuf.write 0 (wireFrame (requestAddress op s) op.code p),
        txlen := BitVec.ofNat 8 (p.length + 6),
        txout := s.txout ++ wireFrame (requestAddress op s) op.code p,
        rxq := [], sv := false, result := 0, err := 0x00, esub := 0x00, drawCount := k }

/-- R163, R165, R170: a request whose check fails, a code that is none of the six, and SyncRead under XACT raise
INVALID_PARAM with `SV = 0` and `RESULT = 0`; nothing is transmitted and nothing else changes. -/
def Obligations.RefusedRequestSendsNothing : Prop :=
  (∀ (s : State) (op : WireOp) (i : Instr) (sub : Byte),
    i = op.instr ∨ (i = .xact ∧ s.aInstr = op.code) → op ≠ .syncread → requestFailure op s = some sub →
    exec i s = .next { s with sv := false, result := 0, err := 0x04, esub := sub }) ∧
  ∀ s : State, s.aInstr ∉ ([0x01, 0x02, 0x03, 0x04, 0x05, 0x83] : List Byte) →
    exec .xact s = .next { s with sv := false, result := 0, err := 0x04, esub := 0x06 }

/-- R171: after an XACT of Read, either OK with exactly the `n` data bytes of a response that passed every check, or an
error with `RESULT = 0`; a short response never gives OK. -/
def Obligations.ReadExactness : Prop :=
  ∀ s t : State, s.aInstr = 0x02 → exec .xact s = .next t →
    (t.err = 0x00 ∧ t.result = s.aLen.setWidth 32 ∧
      ∃ r : List Byte, t.rxlen.toNat = s.aLen.toNat + 6 ∧ r.length = s.aLen.toNat + 6 ∧ t.rxbuf.Holds r ∧
        responseFailure r s.aAddr s.aLen.toNat 0x02 = none ∧
        ∀ j, j < s.aLen.toNat → t.byteAt .hbuf j = r[j + 5]?) ∨
    (t.err ≠ 0x00 ∧ t.result = 0)

/-- R172: an XACT of a write-class instruction to `0xFE` (a SyncWrite always goes there) performs no `RxTake`: it uses no
answer of the environment and takes no byte, and it is the same whatever the environment would have delivered. -/
def Obligations.BroadcastWriteSilence : Prop :=
  ∀ (s : State) (draws : List (List Byte)), (s.aInstr = 0x83 ∨
      (s.aInstr = 0x03 ∨ s.aInstr = 0x04 ∨ s.aInstr = 0x05) ∧ s.aAddr = 0xFE) →
    ∃ t, exec .xact s = .next t ∧ t.draws = s.draws ∧ t.rxbuf = s.rxbuf ∧ t.rxlen = s.rxlen ∧
      (t.rxq = [] ∨ t.rxq = s.rxq) ∧ exec .xact { s with draws := draws } = .next { t with draws := draws }

/-- R173: an XACT appends at most one frame to `TXOUT`, the one it leaves in `TXBUF`, and performs at most one `RxTake`,
and that only when it has transmitted. -/
def Obligations.OneRequestInFlight : Prop :=
  ∀ s t : State, exec .xact s = .next t →
    (t.txout = s.txout ∧ t.draws = s.draws ∧ t.rxq = s.rxq) ∨
    (∃ f : List Byte, t.txout = s.txout ++ f ∧ t.txbuf.Holds f ∧ f.length = t.txlen.toNat ∧
      (t.draws = s.draws ∨ t.draws = s.draws.tail))

/-- R160: SEND transmits `TXBUF[0..TXLEN-1]`, and does nothing to `RXQ` or `FLAGS.SV`. -/
def Obligations.SendTransmitsTheFrame : Prop :=
  ∀ s : State, ∃ f k, s.txbuf.Reads 0 s.txlen.toNat f ∧
    exec .send s = .next { s with
      txout := s.txout ++ f, result := s.txlen.setWidth 32, err := 0x00, esub := 0x00, drawCount := k }

/-- R161: FLUSH_RX empties `RXQ`; `RXBUF` and `RXLEN` are unchanged. -/
def Obligations.FlushDiscardsPendingInput : Prop :=
  ∀ s : State, exec .flushRx s = .next { s with rxq := [], result := 0, err := 0x00, esub := 0x00 }

/-- R162: RECV takes up to `A_LEN` of the queued and arriving bytes, in arrival order, and is never an error; bytes not
taken stay queued. -/
def Obligations.RecvTakesQueuedBytesFirst : Prop :=
  ∀ s : State, ∃ arrived k, (∀ a rest, s.draws = a :: rest → arrived = a) ∧
    ((s.rxq ++ arrived).take s.aLen.toNat).length ≤ 255 ∧
    exec .recv s = .next { s with
      rxq := (s.rxq ++ arrived).drop s.aLen.toNat,
      rxbuf := s.rxbuf.write 0 ((s.rxq ++ arrived).take s.aLen.toNat),
      rxlen := BitVec.ofNat 8 ((s.rxq ++ arrived).take s.aLen.toNat).length,
      result := BitVec.ofNat 32 ((s.rxq ++ arrived).take s.aLen.toNat).length,
      err := 0x00, esub := 0x00, draws := s.draws.tail, drawCount := k }

/-! ### The sync-read session -/

/-- R191: SR_BEGIN, its checks in order and its effects. -/
def Obligations.SrBeginStartsASession : Prop :=
  ∀ s : State,
    (s.sra = true → exec .srBegin s = .next { s with result := 0, err := 0x06, esub := 0x02 }) ∧
    (s.sra = false → s.aCnt = 0 → exec .srBegin s = .next { s with result := 0, err := 0x04, esub := 0x03 }) ∧
    (s.sra = false → s.aCnt ≠ 0 → s.aLen.toNat > 249 →
      exec .srBegin s = .next { s with result := 0, err := 0x04, esub := 0x01 }) ∧
    (s.sra = false → s.aCnt ≠ 0 → s.aLen.toNat ≤ 249 → s.aCnt.toNat * (s.aLen.toNat + 6) > s.srBufCap.toNat →
      exec .srBegin s = .next { s with result := 0, err := 0x03, esub := 0x00 }) ∧
    (s.sra = false → s.aCnt ≠ 0 → s.aLen.toNat ≤ 249 → s.aCnt.toNat * (s.aLen.toNat + 6) ≤ s.srBufCap.toNat →
      ∃ t, exec .srBegin s = .next t ∧ t.sra = true ∧ t.pv = false ∧ t.srN = s.aCnt ∧ t.srL = s.aLen ∧
        t.srSize.toNat = s.aCnt.toNat * (s.aLen.toNat + 6) ∧ t.srRawlen = 0 ∧ t.srCur = 0 ∧
        t.result.toNat = s.aCnt.toNat * (s.aLen.toNat + 6) ∧ t.err = 0x00 ∧ t.esub = 0x00 ∧
        t = { s with sra := true, pv := false, srN := t.srN, srL := t.srL, srSize := t.srSize, srRawlen := 0,
                     srCur := 0, result := t.result, err := 0x00, esub := 0x00 })

/-- R192: SR_XFER: the checks in order; then the frame with `SR_L` as its length byte is transmitted after a flush, and up
to `SR_SIZE` arriving bytes fill `SRBUF`. -/
def Obligations.SrXferFillsTheRawBuffer : Prop :=
  ∀ s : State,
    (s.sra = false → exec .srXfer s = .next { s with result := 0, err := 0x06, esub := 0x01 }) ∧
    (s.sra = true → s.aCnt = 0 → exec .srXfer s = .next { s with result := 0, err := 0x04, esub := 0x03 }) ∧
    (s.sra = true → s.aCnt.toNat > 247 → exec .srXfer s = .next { s with result := 0, err := 0x04, esub := 0x01 }) ∧
    (s.sra = true → s.aCnt ≠ 0 → s.aCnt.toNat ≤ 247 → ∃ ids arrived k,
      s.hbuf.Reads 0 s.aCnt.toNat ids ∧ (∀ a rest, s.draws = a :: rest → arrived = a) ∧
      exec .srXfer s = .next { s with
        txbuf := s.txbuf.write 0 (wireFrame 0xFE 0x82 (s.aReg :: s.srL :: ids)),
        txlen := BitVec.ofNat 8 (s.aCnt.toNat + 8),
        txout := s.txout ++ wireFrame 0xFE 0x82 (s.aReg :: s.srL :: ids),
        srbuf := s.srbuf.write 0 (arrived.take s.srSize.toNat),
        srRawlen := BitVec.ofNat 16 (arrived.take s.srSize.toNat).length,
        result := BitVec.ofNat 32 (arrived.take s.srSize.toNat).length,
        rxq := arrived.drop s.srSize.toNat, draws := s.draws.tail, err := 0x00, esub := 0x00, drawCount := k })

/-- The wire instruction SyncRead is the exchange of SR_XFER (the model's reading of R86, R170 and R192, log 8): in a
session, with 1 to 247 addresses, it completes as R192 says. -/
def Obligations.SyncReadCompletesInASession : Prop :=
  ∀ s : State, s.sra = true → s.aCnt ≠ 0 → s.aCnt.toNat ≤ 247 → ∃ ids arrived k,
    s.hbuf.Reads 0 s.aCnt.toNat ids ∧ (∀ a rest, s.draws = a :: rest → arrived = a) ∧
    exec .syncread s = .next { s with
      txbuf := s.txbuf.write 0 (wireFrame 0xFE 0x82 (s.aReg :: s.srL :: ids)),
      txlen := BitVec.ofNat 8 (s.aCnt.toNat + 8),
      txout := s.txout ++ wireFrame 0xFE 0x82 (s.aReg :: s.srL :: ids),
      srbuf := s.srbuf.write 0 (arrived.take s.srSize.toNat),
      srRawlen := BitVec.ofNat 16 (arrived.take s.srSize.toNat).length,
      result := BitVec.ofNat 32 (arrived.take s.srSize.toNat).length,
      rxq := arrived.drop s.srSize.toNat, draws := s.draws.tail, err := 0x00, esub := 0x00, drawCount := k }

/-- R193: `FindHeader` gives the smallest candidate from `s` on, and none when there is none. A candidate is `FF FF X`
with `X` not `FF`, inside the buffer. -/
def Obligations.FindHeaderGivesTheFirstCandidate : Prop :=
  ∀ (buf : List Byte) (s : Nat),
    (∀ h, findHeader buf s = some h ↔
      (s ≤ h ∧ buf[h]? = some 0xFF ∧ buf[h + 1]? = some 0xFF ∧ ∃ x, buf[h + 2]? = some x ∧ x ≠ 0xFF) ∧
      ∀ g, s ≤ g → g < h →
        ¬ (buf[g]? = some 0xFF ∧ buf[g + 1]? = some 0xFF ∧ ∃ x, buf[g + 2]? = some x ∧ x ≠ 0xFF)) ∧
    (findHeader buf s = none ↔ ∀ g, s ≤ g →
      ¬ (buf[g]? = some 0xFF ∧ buf[g + 1]? = some 0xFF ∧ ∃ x, buf[g + 2]? = some x ∧ x ≠ 0xFF))

/-- R194: the scan is the loop of the rule, started at 0, and never ends because the fuel of its definition runs out: the
function `from_`, which says what the loop gives from a position, satisfies the loop's equation at every position. -/
def Obligations.ScanFollowsItsLoop : Prop :=
  ∀ (t : Byte) (l : Nat) (buf : List Byte), ∃ from_ : Nat → ScanResult, scan t l buf = from_ 0 ∧
    ∀ s, from_ s =
      match findHeader buf s with
      | none => .notFound
      | some h =>
        if buf[h + 2]? ≠ some t then from_ (h + 1)
        else match buf[h + 3]? with
          | none => .truncated
          | some len =>
            if len.toNat ≠ l + 2 then from_ (h + 4)
            else match buf[h + 5 + l]? with
              | none => .truncated
              | some chk =>
                if chk ≠ wireChecksum ((buf.drop (h + 2)).take (l + 3)) then .checksum
                else .found h (buf.getD (h + 4) 0) ((buf.drop (h + 5)).take l)

/-- R196: after a rejected candidate, resuming at `h + 1`, `h + 2` or `h + 3` finds the same next candidate; resuming at
`h + 4` finds another only when `buf[h+3] = buf[h+4] = FF` and `buf[h+5]` is a byte that is not `FF`; and the rule's
buffer tells the two apart: the scan gives NOT_FOUND though a frame stands at index 3. -/
def Obligations.ResumePoints : Prop :=
  (∀ (buf : List Byte) (h : Nat), findHeader buf h = some h →
    findHeader buf (h + 1) = findHeader buf (h + 2) ∧ findHeader buf (h + 2) = findHeader buf (h + 3) ∧
    (findHeader buf (h + 4) ≠ findHeader buf (h + 3) →
      buf[h + 3]? = some 0xFF ∧ buf[h + 4]? = some 0xFF ∧ ∃ x, buf[h + 5]? = some x ∧ x ≠ 0xFF)) ∧
  scan 0x01 2 [0xFF, 0xFF, 0x01, 0xFF, 0xFF, 0x01, 0x04, 0x00, 0x10, 0x20, 0xCA] = .notFound ∧
  findHeader [0xFF, 0xFF, 0x01, 0xFF, 0xFF, 0x01, 0x04, 0x00, 0x10, 0x20, 0xCA] 3 = some 3

/-- SR_EXTRACT without a session, and with one for each result of the scan of `SRBUF[0..SR_RAWLEN-1]` (R195). That it
leaves `SR_CUR` as it was without a session is the model's choice (log 14, DEDUCED): R195 says too that `SR_CUR` is 0
after every SR_EXTRACT, and the last clause says that this holds where R55 holds before. -/
def Obligations.ExtractFollowsTheScan : Prop :=
  ∀ s : State,
    (s.sra = false → exec .srExtract s = .next { s with
      pv := false, sv := false, result := 0, pkt := Memory.unspecified, err := 0x06, esub := 0x01 }) ∧
    (s.sra = true → ∃ raw k, s.srbuf.Reads 0 s.srRawlen.toNat raw ∧
      exec .srExtract s =
        match scan s.aAddr s.srL.toNat raw with
        | .found _ status data => .next { s with
            srCur := 0, pkt := s.pkt.write 0 data, pv := true, status := status, sv := true, rspAddr := s.aAddr,
            result := s.srL.setWidth 32, err := 0x00, esub := 0x00, drawCount := k }
        | .notFound => .next { s with
            srCur := 0, pv := false, sv := false, result := 0, pkt := Memory.unspecified, err := 0x02, esub := 0x06,
            drawCount := k }
        | .truncated => .next { s with
            srCur := 0, pv := false, sv := false, result := 0, pkt := Memory.unspecified, err := 0x02, esub := 0x07,
            drawCount := k }
        | .checksum => .next { s with
            srCur := 0, pv := false, sv := false, result := 0, pkt := Memory.unspecified, err := 0x02, esub := 0x04,
            drawCount := k }) ∧
    (s.SessionInvariant → ∀ t, exec .srExtract s = .next t → t.srCur = 0)

/-- R202: with the raw buffer a row of valid frames of distinct nodes, none `FF` and none with two `FF` in a row from its
byte 2 on, SR_EXTRACT of each node succeeds with its data, and of any other address fails with NOT_FOUND; the raw
buffer is unchanged, so this holds in any order and any number of times. -/
def Obligations.ExtractionIndependence : Prop :=
  ∀ (s : State) (frames : List (Byte × Byte × List Byte)), s.sra = true → s.srL.toNat ≤ 249 →
    (∀ f ∈ frames, f.2.2.length = s.srL.toNat ∧ f.1 ≠ 0xFF ∧
      ∀ j, 2 ≤ j → ¬ ((wireFrame f.1 f.2.1 f.2.2)[j]? = some 0xFF ∧ (wireFrame f.1 f.2.1 f.2.2)[j + 1]? = some 0xFF)) →
    (frames.map (fun f => f.1)).Nodup →
    s.srbuf.Holds (frames.flatMap (fun f => wireFrame f.1 f.2.1 f.2.2)) →
    s.srRawlen.toNat = (frames.flatMap (fun f => wireFrame f.1 f.2.1 f.2.2)).length →
    ∃ t, exec .srExtract s = .next t ∧
      (t.sra = true ∧ t.srL = s.srL ∧ t.srbuf = s.srbuf ∧ t.srRawlen = s.srRawlen) ∧
      (∀ st data, (s.aAddr, st, data) ∈ frames →
        t.err = 0x00 ∧ t.result = s.srL.setWidth 32 ∧ t.pv = true ∧ t.status = st ∧ t.sv = true ∧
        t.rspAddr = s.aAddr ∧ t.srCur = 0 ∧ ∀ j, j < s.srL.toNat → t.byteAt .pkt j = data[j]?) ∧
      (s.aAddr ∉ frames.map (fun f => f.1) → t.err = 0x02 ∧ t.esub = 0x06 ∧ t.pv = false ∧ t.result = 0)

/-- R203: SR_EXTRACT with a raw buffer that ends inside the frame of node `A_ADDR`: TRUNCATED when it ends after the
address byte and no earlier candidate is of that node, NOT_FOUND when it ends before the address byte; and no byte of
`SRBUF` at or above `SR_RAWLEN` changes what SR_EXTRACT does. -/
def Obligations.TruncationSafety : Prop :=
  (∀ (s : State) (st : Byte) (data earlier : List Byte) (k : Nat),
    let raw := earlier ++ (wireFrame s.aAddr st data).take k
    s.sra = true → s.aAddr ≠ 0xFF → data.length = s.srL.toNat → data.length ≤ 249 → k < data.length + 6 →
    s.srbuf.Holds raw → s.srRawlen.toNat = raw.length →
    (∀ h, h < earlier.length → raw[h + 2]? = some s.aAddr → ¬ (raw[h]? = some 0xFF ∧ raw[h + 1]? = some 0xFF)) →
    ∃ t, exec .srExtract s = .next t ∧ t.err = 0x02 ∧ t.esub = (if 3 ≤ k then 0x07 else 0x06) ∧
      t.pv = false ∧ t.sv = false ∧ t.result = 0) ∧
  ∀ (s t : State) (m : Memory), (∀ j, j < s.srRawlen.toNat → m.load j = s.srbuf.load j) →
    exec .srExtract s = .next t → exec .srExtract { s with srbuf := m } = .next { t with srbuf := m }

/-- R68: SR_EXTRACT of the address `FF` in a session always fails with NOT_FOUND, whatever the raw buffer holds. -/
def Obligations.AddressFFIsNeverFound : Prop :=
  ∀ s : State, s.sra = true → s.aAddr = 0xFF →
    ∃ t, exec .srExtract s = .next t ∧ t.err = 0x02 ∧ t.esub = 0x06 ∧ t.pv = false ∧ t.sv = false ∧ t.result = 0

/-- R197: SR_NEXT_BYTE, exhausted or not. -/
def Obligations.NextByteConsumesThePacket : Prop :=
  ∀ s : State,
    (s.pv = false ∨ s.srCur.toNat ≥ s.srL.toNat →
      exec .srNextByte s = .next { s with result := 0xFFFFFFFF, err := 0x07, esub := 0x00 }) ∧
    (s.pv = true → s.srCur.toNat < s.srL.toNat → ∃ b k, s.pkt.Reads s.srCur.toNat 1 [b] ∧
      exec .srNextByte s = .next { s with
        result := b.setWidth 32, srCur := s.srCur + 1, err := 0x00, esub := 0x00, drawCount := k })

/-- R198: SR_NEXT_WORD, exhausted or not: the pair in the byte order `CTRL.END`, then the sign-magnitude decode that
`A_SBIT` says, as 32-bit two's complement. -/
def Obligations.NextWordConsumesThePacket : Prop :=
  ∀ s : State,
    (s.pv = false ∨ s.srCur.toNat + 2 > s.srL.toNat →
      exec .srNextWord s = .next { s with result := 0xFFFFFFFF, err := 0x07, esub := 0x00 }) ∧
    (s.pv = true → s.srCur.toNat + 2 ≤ s.srL.toNat → ∃ b0 b1 k, s.pkt.Reads s.srCur.toNat 2 [b0, b1] ∧
      exec .srNextWord s = .next { s with
        result := BitVec.ofInt 32
          (smDecode (pairToWord b0 b1 (s.ctrl.getLsbD 0)) (s.aSbit.extractLsb' 0 4).toNat (s.aSbit.getLsbD 7)),
        srCur := s.srCur + 2, err := 0x00, esub := 0x00, drawCount := k })

/-- R199: SR_END clears the session and makes `SRBUF` and `PKT` unspecified; without a session it only writes `RESULT`
and `ERR`. -/
def Obligations.SrEndClearsTheSession : Prop :=
  ∀ s : State,
    (s.sra = true → exec .srEnd s = .next { s with
      sra := false, pv := false, srN := 0, srL := 0, srSize := 0, srRawlen := 0, srCur := 0,
      srbuf := Memory.unspecified, pkt := Memory.unspecified, result := 0, err := 0x00, esub := 0x00 }) ∧
    (s.sra = false → exec .srEnd s = .next { s with result := 0, err := 0x00, esub := 0x00 })

/-- R200: the exact next state of every session command but SR_BEGIN without a session (and so, by R55, without a packet
and with `SR_CUR = 0`). SR_XFER and SR_EXTRACT report SESSION(NOT_ACTIVE), the decoders report EXHAUSTED, and SR_END
ends OK; none of them depends on, or fills, what a session left behind. What SR_EXTRACT leaves in `SR_CUR` is said only
where it is 0 before. -/
def Obligations.UseWithoutASessionIsReported : Prop :=
  ∀ s : State, s.sra = false → s.pv = false →
    exec .srXfer s = .next { s with result := 0, err := 0x06, esub := 0x01 } ∧
    (∃ cur, (s.srCur = 0 → cur = 0) ∧ exec .srExtract s = .next { s with
      srCur := cur, sv := false, result := 0, pkt := Memory.unspecified, err := 0x06, esub := 0x01 }) ∧
    exec .srNextByte s = .next { s with result := 0xFFFFFFFF, err := 0x07, esub := 0x00 } ∧
    exec .srNextWord s = .next { s with result := 0xFFFFFFFF, err := 0x07, esub := 0x00 } ∧
    exec .srEnd s = .next { s with result := 0, err := 0x00, esub := 0x00 }

/-- R190: the life of the session, row by row; and no instruction of another family changes it. That the decoders are
EXHAUSTED without a session rests on R55, which every step keeps. -/
def Obligations.SessionLifecycle : Prop :=
  ∀ (i : Instr) (s t : State), s.SessionInvariant → exec i s = .next t →
    (i ∉ ([.srBegin, .srXfer, .syncread, .srExtract, .srNextByte, .srNextWord, .srEnd] : List Instr) →
      SessionUntouched s t) ∧
    (s.sra = false →
      (i = .srBegin → (t.sra = true ↔
        s.aCnt ≠ 0 ∧ s.aLen.toNat ≤ 249 ∧ s.aCnt.toNat * (s.aLen.toNat + 6) ≤ s.srBufCap.toNat)) ∧
      (i = .srXfer ∨ i = .syncread ∨ i = .srExtract → t.sra = false ∧ t.err = 0x06 ∧ t.esub = 0x01) ∧
      (i = .srNextByte ∨ i = .srNextWord → t.sra = false ∧ t.err = 0x07) ∧
      (i = .srEnd → t.sra = false ∧ t.err = 0x00 ∧ SessionUntouched s t)) ∧
    (s.sra = true →
      (i = .srBegin → t.err = 0x06 ∧ t.esub = 0x02 ∧ SessionUntouched s t) ∧
      (i = .srXfer ∨ i = .syncread ∨ i = .srExtract ∨ i = .srNextByte ∨ i = .srNextWord → t.sra = true) ∧
      (i = .srEnd → t.sra = false))

/-! ### The endianness adapter and the sign-magnitude conversion -/

/-- R231: H2B stores the two bytes of `A_WORD` at `HBUF[i]` and `HBUF[i+1]` in the byte order `CTRL.END`, or raises
BAD_INDEX for `i = 255`. -/
def Obligations.H2bStoresThePair : Prop :=
  ∀ s : State,
    (s.aIdx = 255 → exec .h2b s = .next { s with result := 0, err := 0x04, esub := 0x04 }) ∧
    (s.aIdx ≠ 255 → exec .h2b s = .next { s with
      hbuf := s.hbuf.write s.aIdx.toNat
        (if s.ctrl.getLsbD 0 then [s.aWord.extractLsb' 8 8, s.aWord.extractLsb' 0 8]
          else [s.aWord.extractLsb' 0 8, s.aWord.extractLsb' 8 8]),
      result := 2, err := 0x00, esub := 0x00 })

/-- R232: B2H reads the pair at `HBUF[i]` as a word in the byte order `CTRL.END`, or raises BAD_INDEX for `i = 255`. -/
def Obligations.B2hReadsThePair : Prop :=
  ∀ s : State,
    (s.aIdx = 255 → exec .b2h s = .next { s with result := 0, err := 0x04, esub := 0x04 }) ∧
    (s.aIdx ≠ 255 → ∃ b0 b1 k, s.hbuf.Reads s.aIdx.toNat 2 [b0, b1] ∧
      exec .b2h s = .next { s with
        result := if s.ctrl.getLsbD 0 then (b0 ++ b1).setWidth 32 else (b1 ++ b0).setWidth 32,
        err := 0x00, esub := 0x00, drawCount := k })

/-- R233, R234: SM_DEC: the unsigned word with `SE = 0`; else the word with bit `S` cleared, negated when bit `S` is set,
as 32-bit two's complement. -/
def Obligations.SmDecDecodesSignMagnitude : Prop :=
  ∀ s : State, exec .smDec s = .next { s with
    result := BitVec.ofInt 32
      (if s.aSbit.getLsbD 7 = false then (s.aWord.toNat : Int)
        else if s.aWord.getLsbD (s.aSbit.extractLsb' 0 4).toNat
          then -((s.aWord &&& ~~~ (1#16 <<< (s.aSbit.extractLsb' 0 4).toNat)).toNat : Int)
          else ((s.aWord &&& ~~~ (1#16 <<< (s.aSbit.extractLsb' 0 4).toNat)).toNat : Int)),
    err := 0x00, esub := 0x00 }

/-- R235, R236: SM_ENC of the 32-bit two's-complement `A_VAL`: the word, zero-extended, or NOT_REPRESENTABLE with
`RESULT = 0`. -/
def Obligations.SmEncEncodesSignMagnitude : Prop :=
  ∀ s : State,
    let v := s.aVal.toInt
    let sgn := (s.aSbit.extractLsb' 0 4).toNat
    (s.aSbit.getLsbD 7 = false → 0 ≤ v → v ≤ 0xFFFF →
      exec .smEnc s = .next { s with result := BitVec.ofInt 32 v, err := 0x00, esub := 0x00 }) ∧
    (s.aSbit.getLsbD 7 = false → v < 0 ∨ 0xFFFF < v →
      exec .smEnc s = .next { s with result := 0, err := 0x04, esub := 0x05 }) ∧
    (s.aSbit.getLsbD 7 = true → 0xFFFF < v.natAbs ∨ v.natAbs.testBit sgn = true →
      exec .smEnc s = .next { s with result := 0, err := 0x04, esub := 0x05 }) ∧
    (s.aSbit.getLsbD 7 = true → v.natAbs ≤ 0xFFFF → v.natAbs.testBit sgn = false →
      exec .smEnc s = .next { s with
        result := BitVec.ofNat 32 (if v < 0 then v.natAbs ||| (1 <<< sgn) else v.natAbs), err := 0x00, esub := 0x00 })

/-- R237: the laws of the adapter. H2B and then B2H with the same `A_IDX` and `END` give `RESULT = A_WORD`; the two byte
orders are each other's swap; sign-magnitude decode undoes encode, and encode undoes decode but for the negative zero. -/
def Obligations.AdapterLaws : Prop :=
  (∀ (w : Half) (e : Bool), pairToWord (wordToPair w e).1 (wordToPair w e).2 e = w) ∧
  (∀ s t : State, s.aIdx ≠ 255 → exec .h2b s = .next t →
    ∃ u, exec .b2h t = .next u ∧ u.err = 0x00 ∧ u.result = s.aWord.setWidth 32) ∧
  (∀ w : Half, wordToPair w false = ((wordToPair w true).2, (wordToPair w true).1)) ∧
  (∀ (v : Int) (sgn : Nat) (se : Bool) (w : Half), sgn ≤ 15 → smEncode v sgn se = some w → smDecode w sgn se = v) ∧
  (∀ (w : Half) (sgn : Nat) (se : Bool), sgn ≤ 15 →
    smEncode (smDecode w sgn se) sgn se = if se = true ∧ w = 1#16 <<< sgn then some 0 else some w)

/-- R238: NOP writes `ERR = OK` and `ESUB = 0` and nothing else. -/
def Obligations.NopOnlyClearsTheError : Prop :=
  ∀ s : State, exec .nop s = .next { s with err := 0x00, esub := 0x00 }

/-! ### Frames -/

/-- The frame of the commands that store in no buffer: NOP, CKSUM, B2H, SM_DEC, SM_ENC, SEND, FLUSH_RX, SR_NEXT_BYTE,
SR_NEXT_WORD, SR_BEGIN. Every register keeps its value but `RESULT`, `ERR`, `ESUB`, the cursor of the two decoders, and
the session registers and `FLAGS` of SR_BEGIN; every byte of every buffer is as before; the streams are as before but
for `TXOUT` under SEND and `RXQ` under FLUSH_RX. -/
def Obligations.FrameOfCommandsThatStoreNothing : Prop :=
  ∀ (i : Instr) (s t : State),
    i ∈ ([.nop, .cksum, .b2h, .smDec, .smEnc, .send, .flushRx, .srNextByte, .srNextWord, .srBegin] : List Instr) →
    exec i s = .next t →
    BuffersKept s t ∧ OutsideKept s t ∧ t.draws = s.draws ∧ t.sv = s.sv ∧
    (i ≠ .send → t.txout = s.txout) ∧ (i ≠ .flushRx → t.rxq = s.rxq) ∧
    (i ≠ .srBegin → t.sra = s.sra ∧ t.pv = s.pv) ∧
    RegsKept
      (match i with
        | .nop => [.err, .esub]
        | .srNextByte | .srNextWord => [.result, .err, .esub, .srCur]
        | .srBegin => [.result, .err, .esub, .flags, .srN, .srL, .srSize, .srRawlen, .srCur]
        | _ => [.result, .err, .esub]) s t

/-- The frame of the commands that store in one buffer: ENCODE in `TXBUF[0..TXLEN-1]`, H2B in `HBUF[i]` and `HBUF[i+1]`,
RECV in `RXBUF[0..RXLEN-1]`, DECODE in `HBUF[0..n-1]`. Every byte outside is as before, and so is every register but
the ones the rule of the command writes. -/
def Obligations.FrameOfStoringCommands : Prop :=
  (∀ s t : State, exec .encode s = .next t →
    BuffersKeptOutside .txbuf t.txlen.toNat s t ∧ OutsideKept s t ∧ StreamsKept s t ∧
    RegsKept [.result, .err, .esub, .txlen] s t) ∧
  (∀ s t : State, exec .h2b s = .next t →
    (∀ b j, b ≠ .hbuf ∨ j < s.aIdx.toNat ∨ s.aIdx.toNat + 2 ≤ j → (t.buf b).load j = (s.buf b).load j) ∧
    OutsideKept s t ∧ StreamsKept s t ∧ RegsKept [.result, .err, .esub] s t) ∧
  (∀ s t : State, exec .recv s = .next t →
    BuffersKeptOutside .rxbuf t.rxlen.toNat s t ∧ OutsideKept s t ∧ t.txout = s.txout ∧
    RegsKept [.result, .err, .esub, .rxlen] s t) ∧
  (∀ s t : State, exec .decode s = .next t →
    BuffersKeptOutside .hbuf s.aLen.toNat s t ∧ OutsideKept s t ∧ StreamsKept s t ∧ t.sra = s.sra ∧ t.pv = s.pv ∧
    RegsKept [.result, .err, .esub, .status, .flags, .rspAddr] s t)

/-- The frame of the transactions: XACT and the wire instructions but SyncRead. Only `TXBUF[0..TXLEN-1]`,
`RXBUF[0..RXLEN-1]` and, for a Read, `HBUF[0..n-1]` may change; a request that expects no response, and one that is
refused and so transmits nothing, leaves `RXBUF`, `RXLEN` and `HBUF` whole; the session and the operand registers are
as before. -/
def Obligations.FrameOfTransactions : Prop :=
  ∀ (i : Instr) (s t : State),
    i ∈ ([.xact, .ping, .read, .write, .bwrite, .btrigger, .syncwrite] : List Instr) → exec i s = .next t →
    (∀ j, t.txlen.toNat ≤ j → t.txbuf.load j = s.txbuf.load j) ∧
    (∀ j, t.rxlen.toNat ≤ j → t.rxbuf.load j = s.rxbuf.load j) ∧
    (∀ j, (i = .read ∨ i = .xact ∧ s.aInstr = 0x02) ∧ s.aLen.toNat ≤ j ∨
      ¬ (i = .read ∨ i = .xact ∧ s.aInstr = 0x02) → t.hbuf.load j = s.hbuf.load j) ∧
    (t.txout = s.txout → t.txbuf = s.txbuf) ∧
    (i = .syncwrite ∨ (i ∈ ([.write, .bwrite, .btrigger] : List Instr) ∧ s.aAddr = 0xFE) ∨
        (i = .xact ∧ (s.aInstr = 0x83 ∨ s.aInstr ∈ ([0x03, 0x04, 0x05] : List Byte) ∧ s.aAddr = 0xFE)) ∨
        t.txout = s.txout →
      t.rxbuf = s.rxbuf ∧ t.rxlen = s.rxlen ∧ t.hbuf = s.hbuf) ∧
    (∀ j, t.srbuf.load j = s.srbuf.load j ∧ t.pkt.load j = s.pkt.load j) ∧
    OutsideKept s t ∧ t.sra = s.sra ∧ t.pv = s.pv ∧
    RegsKept [.result, .err, .esub, .status, .flags, .rspAddr, .txlen, .rxlen] s t

/-- The frame of the session commands that store: SR_XFER and SyncRead in `TXBUF[0..TXLEN-1]` and
`SRBUF[0..SR_RAWLEN-1]`; SR_EXTRACT in `PKT`; SR_END in `SRBUF` and `PKT`. `HBUF` and `RXBUF` are whole, and so is every
register but the ones the rule of the command writes. -/
def Obligations.FrameOfSessionCommands : Prop :=
  (∀ (i : Instr) (s t : State), i = .srXfer ∨ i = .syncread → exec i s = .next t →
    (∀ b j, (b = .txbuf → t.txlen.toNat ≤ j ∨ t.txout = s.txout) →
        (b = .srbuf → t.srRawlen.toNat ≤ j ∨ t.txout = s.txout) → (t.buf b).load j = (s.buf b).load j) ∧ OutsideKept s t ∧
    RegsKept [.result, .err, .esub, .txlen, .srRawlen] s t) ∧
  (∀ s t : State, exec .srExtract s = .next t →
    (∀ b j, b ≠ .pkt → (t.buf b).load j = (s.buf b).load j) ∧ OutsideKept s t ∧ StreamsKept s t ∧ t.sra = s.sra ∧
    RegsKept [.result, .err, .esub, .status, .flags, .rspAddr, .srCur] s t) ∧
  (∀ s t : State, exec .srEnd s = .next t →
    (∀ b j, b ≠ .pkt → b ≠ .srbuf → (t.buf b).load j = (s.buf b).load j) ∧ OutsideKept s t ∧ StreamsKept s t ∧
    t.sv = s.sv ∧ RegsKept [.result, .err, .esub, .flags, .srN, .srL, .srSize, .srRawlen, .srCur] s t)

/-! ### Rules of the whole machine -/

/-- R23, R24, R30 to R38, R260: every instruction completes, from every state, and leaves every register that the host
may write (the operand registers, `CTRL` and `CMD`) as it was. -/
def Obligations.OperandsAreWrittenOnlyByTheHost : Prop :=
  ∀ (i : Instr) (s : State), ∃ t, exec i s = .next t ∧
    ∀ r : Reg, r.writable = true → t.reg r = s.reg r

/-- R52: `TXOUT` is append-only: an instruction leaves it, or appends the frame it leaves in `TXBUF[0..TXLEN-1]`, whole;
only SEND, a transaction and SR_XFER append; nothing in the block reads it; it is empty at reset. -/
def Obligations.TxoutOnlyGrowsByFrames : Prop :=
  (∀ (i : Instr) (s t : State), exec i s = .next t → t.txout = s.txout ∨
    (i ∈ ([.send, .xact, .srXfer, .ping, .read, .write, .bwrite, .btrigger, .syncread, .syncwrite] : List Instr) ∧
      ∃ f, t.txout = s.txout ++ f ∧ t.txbuf.Reads 0 t.txlen.toNat f)) ∧
  (∀ (i : Instr) (s t : State) (x : List Byte), exec i s = .next t →
    ∃ u, exec i { s with txout := x } = .next u ∧ { u with txout := t.txout } = t) ∧
  State.reset.txout = []

/-- R27, R29: `STATUS` and `RSP_ADDR` are written only by a DECODE, a transaction with a response or an SR_EXTRACT that
succeeds, which also sets `FLAGS.SV`. -/
def Obligations.StatusIsWrittenOnlyOnSuccess : Prop :=
  ∀ (i : Instr) (s t : State), exec i s = .next t → t.status ≠ s.status ∨ t.rspAddr ≠ s.rspAddr →
    i ∈ ([.decode, .srExtract, .xact, .ping, .read, .write, .bwrite, .btrigger] : List Instr) ∧
    t.sv = true ∧ t.err = 0x00 ∧ t.esub = 0x00

/-- R250, R251: every instruction ends with OK or with one of the errors the tables allow it; a FRAMING or TIMEOUT or
INVALID_PARAM leaves `RESULT = 0`, and an EXHAUSTED leaves the sentinel. -/
def Obligations.EveryInstructionReportsItsError : Prop :=
  ∀ (i : Instr) (s t : State), exec i s = .next t →
    ((t.err = 0x00 ∧ t.esub = 0x00) ∨ (t.err, t.esub) ∈ mayRaise i) ∧
    (t.err = 0x07 → t.result = 0xFFFFFFFF) ∧ (t.err ≠ 0x00 → t.err ≠ 0x07 → t.result = 0)

/-- R280, R282 and R281: after reset every register reads 0, the streams are empty, and no buffer byte is specified. -/
def Obligations.ResetState : Prop :=
  (∀ r : Reg, State.reset.reg r = 0) ∧ State.reset.txout = [] ∧ State.reset.rxq = [] ∧
  ∀ b i, State.reset.byteAt b i = none

/-- The invariants hold after reset, for every capacity. -/
def Obligations.InvariantAtReset : Prop := State.reset.Inv

/-- R55 with the canonical form of the buffers, the reserved bits, the legal error codes and the specified bytes: every
step keeps them, from every state in which they hold, whatever comes from outside. -/
def Obligations.InvariantKeptByEveryStep : Prop :=
  ∀ s t : State, s.Inv → step s = .next t → t.Inv
end

