-- ==== Sys2Proof/Laws/Memory.lean ====
section
/-! SUPPORT. The laws of the buffers: what a write, a forget and a read give, and that each keeps the canonical form. -/

namespace Sys2Proof.Machine

@[simp] theorem Memory.load_nil (a : Nat) : Memory.load [] a = none := rfl

@[simp] theorem Memory.load_unspecified (a : Nat) : Memory.unspecified.load a = none := rfl

theorem Memory.load_append (m n : Memory) (a : Nat) : Memory.load (m ++ n) a = (m.load a).or (Memory.load n a) := by
  induction m with
  | nil => simp
  | cons c m ih =>
    obtain ⟨k, v⟩ := c
    simp only [List.cons_append, Memory.load]
    split
    · simp
    · exact ih

theorem Memory.load_filter (m : Memory) (p : Nat → Bool) (a : Nat) :
    Memory.load (m.filter (fun c => p c.1)) a = if p a then m.load a else none := by
  induction m with
  | nil => simp
  | cons c m ih =>
    obtain ⟨k, v⟩ := c
    by_cases hk : k = a
    · subst hk
      by_cases hp : p k <;> simp [hp, Memory.load, ih]
    · by_cases hp : p k <;> simp [hp, Memory.load, ih, hk]

theorem Memory.load_cells (bytes : List Byte) (i a : Nat) :
    (Memory.cells i bytes).load a = if i ≤ a then bytes[a - i]? else none := by
  induction bytes generalizing i with
  | nil => simp [Memory.cells]
  | cons b bs ih =>
    simp only [Memory.cells, Memory.load, ih]
    by_cases h : i = a
    · subst h; simp
    · by_cases h' : i ≤ a
      · have : a - i = (a - (i + 1)) + 1 := by omega
        simp [h, h', this, show i + 1 ≤ a by omega]
      · simp [h, h', show ¬ i + 1 ≤ a by omega]

/-- A write is read back where it was written, and changes nothing else. -/
theorem Memory.load_write (m : Memory) (i : Nat) (bytes : List Byte) (a : Nat) :
    (m.write i bytes).load a = if i ≤ a ∧ a < i + bytes.length then bytes[a - i]? else m.load a := by
  have low := Memory.load_filter m (fun c => decide (c < i)) a
  have high := Memory.load_filter m (fun c => decide (i + bytes.length ≤ c)) a
  simp only [Memory.write, Memory.load_append, low, high, Memory.load_cells]
  by_cases h1 : a < i
  · simp [h1, show ¬ i ≤ a by omega, show ¬ i + bytes.length ≤ a by omega]
  · by_cases h2 : a < i + bytes.length
    · have : bytes[a - i]? = some (bytes[a - i]'(by omega)) := List.getElem?_eq_getElem (by omega)
      simp [h1, h2, show i ≤ a by omega, this]
    · have : bytes[a - i]? = none := List.getElem?_eq_none (by omega)
      simp [h1, h2, show i ≤ a by omega, show i + bytes.length ≤ a by omega, this]

@[simp] theorem Memory.load_write_nil (m : Memory) (i a : Nat) : (m.write i []).load a = m.load a := by
  rw [Memory.load_write]; simp

/-- Writing from index 0, the form every command uses. -/
theorem Memory.load_write_zero (m : Memory) (bytes : List Byte) (a : Nat) :
    (m.write 0 bytes).load a = if a < bytes.length then bytes[a]? else m.load a := by
  simp [Memory.load_write]

theorem Memory.load_write_zero_ge (m : Memory) {bytes : List Byte} {a : Nat} (h : bytes.length ≤ a) :
    (m.write 0 bytes).load a = m.load a := by
  simp [Memory.load_write_zero, show ¬ a < bytes.length by omega]

theorem Memory.holds_write (m : Memory) (bytes : List Byte) : (m.write 0 bytes).Holds bytes :=
  fun j hj => by simp [Memory.load_write_zero, hj]

theorem Memory.load_forget (m : Memory) (n a : Nat) : (m.forget n).load a = if a < n then none else m.load a := by
  rw [Memory.forget, Memory.load_filter m (fun c => decide (n ≤ c)) a]
  by_cases h : a < n
  · simp [h, show ¬ n ≤ a by omega]
  · simp [h, show n ≤ a by omega]

/-! ### Reading -/

@[simp] theorem Memory.length_read (m : Memory) (k i n : Nat) : (m.read k i n).length = n := by simp [Memory.read]

theorem Memory.getElem?_read (m : Memory) (k i n j : Nat) (h : j < n) :
    (m.read k i n)[j]? = some ((m.load (i + j)).getD (Config.freeByte (k + j))) := by
  simp [Memory.read, List.getElem?_map, List.getElem?_range h]

/-- The machine's reading is one of the readings R104 allows. -/
theorem Memory.reads_read (m : Memory) (k i n : Nat) : m.Reads i n (m.read k i n) :=
  ⟨m.length_read k i n, fun j v hj hv => by rw [m.getElem?_read k i n j hj, hv]; rfl⟩

/-- Where every byte is specified, the reading is those bytes, whatever the draw counter. -/
theorem Memory.Holds.read_eq {m : Memory} {bytes : List Byte} (h : m.Holds bytes) (k : Nat) :
    m.read k 0 bytes.length = bytes := by
  apply List.ext_getElem?
  intro j
  by_cases hj : j < bytes.length
  · rw [m.getElem?_read k 0 _ j hj, Nat.zero_add, h j hj, List.getElem?_eq_getElem hj]; rfl
  · rw [List.getElem?_eq_none (by simpa using hj), List.getElem?_eq_none (by omega)]

theorem Memory.read_write (m : Memory) (bytes : List Byte) (k : Nat) :
    (m.write 0 bytes).read k 0 bytes.length = bytes :=
  (m.holds_write bytes).read_eq k

/-- A reading depends on the bytes it covers and on nothing else. -/
theorem Memory.read_congr {m m' : Memory} {i n : Nat} (k : Nat)
    (h : ∀ j, j < n → m'.load (i + j) = m.load (i + j)) : m'.read k i n = m.read k i n := by
  simp only [Memory.read]
  refine List.map_congr_left fun j hj => ?_
  rw [h j (by simpa using hj)]

/-! ### The canonical form -/

theorem Memory.wf_nil (size : Nat) : Memory.wf size [] := by simp [Memory.wf]

theorem Memory.mem_cells {i : Nat} {bytes : List Byte} {c : Host.Cell} (h : c ∈ Memory.cells i bytes) :
    i ≤ c.1 ∧ c.1 < i + bytes.length := by
  induction bytes generalizing i with
  | nil => simp [Memory.cells] at h
  | cons b bs ih =>
    simp only [Memory.cells, List.mem_cons] at h
    rcases h with rfl | h
    · simp
    · have := ih h; simp; omega

theorem Memory.pairwise_cells (i : Nat) (bytes : List Byte) :
    (Memory.cells i bytes).Pairwise (fun c d => c.1 < d.1) := by
  induction bytes generalizing i with
  | nil => exact List.Pairwise.nil
  | cons b bs ih =>
    exact List.Pairwise.cons (fun c hc => (Memory.mem_cells hc).1) (ih (i + 1))

theorem Memory.wf_write {size : Nat} {m : Memory} {i : Nat} {bytes : List Byte} (hm : m.wf size)
    (hi : i + bytes.length ≤ size) : (m.write i bytes).wf size := by
  obtain ⟨hp, hs⟩ := hm
  refine ⟨?_, fun c hc => ?_⟩
  · simp only [Memory.write, List.pairwise_append, List.mem_append, List.mem_filter, decide_eq_true_eq]
    refine ⟨⟨hp.filter _, Memory.pairwise_cells i bytes, fun c hc d hd => ?_⟩, hp.filter _, fun c hc d hd => ?_⟩
    · have := Memory.mem_cells hd; omega
    · rcases hc with hc | hc
      · omega
      · have := Memory.mem_cells hc; omega
  · simp only [Memory.write, List.mem_append, List.mem_filter] at hc
    rcases hc with (hc | hc) | hc
    · exact hs c hc.1
    · have := Memory.mem_cells hc; omega
    · exact hs c hc.1

theorem Memory.wf_forget {size : Nat} {m : Memory} (hm : m.wf size) (n : Nat) : (m.forget n).wf size :=
  ⟨hm.1.filter _, fun c hc => hm.2 c (List.mem_of_mem_filter hc)⟩

end Sys2Proof.Machine
end

