-- ==== Sys2Proof/Laws/State.lean ====
section
/-! SUPPORT. For each named update of the state, every field after it, each true by rfl: no later proof unfolds one. -/

namespace Sys2Proof.Machine

@[simp] theorem State.spend_fields (s : State) (n : Nat) :
    (s.spend n).cmd = s.cmd ∧ (s.spend n).ctrl = s.ctrl ∧ (s.spend n).err = s.err ∧ (s.spend n).esub = s.esub ∧
    (s.spend n).status = s.status ∧ (s.spend n).sv = s.sv ∧ (s.spend n).sra = s.sra ∧ (s.spend n).pv = s.pv ∧
    (s.spend n).rspAddr = s.rspAddr ∧ (s.spend n).aAddr = s.aAddr ∧ (s.spend n).aInstr = s.aInstr ∧
    (s.spend n).aReg = s.aReg ∧ (s.spend n).aLen = s.aLen ∧ (s.spend n).aCnt = s.aCnt ∧ (s.spend n).aIdx = s.aIdx ∧
    (s.spend n).aSbit = s.aSbit ∧ (s.spend n).aWord = s.aWord ∧ (s.spend n).aVal = s.aVal ∧
    (s.spend n).result = s.result ∧ (s.spend n).txlen = s.txlen ∧ (s.spend n).rxlen = s.rxlen ∧
    (s.spend n).srN = s.srN ∧ (s.spend n).srL = s.srL ∧ (s.spend n).srSize = s.srSize ∧
    (s.spend n).srRawlen = s.srRawlen ∧ (s.spend n).srCur = s.srCur ∧ (s.spend n).hbuf = s.hbuf ∧
    (s.spend n).txbuf = s.txbuf ∧ (s.spend n).rxbuf = s.rxbuf ∧ (s.spend n).srbuf = s.srbuf ∧
    (s.spend n).pkt = s.pkt ∧ (s.spend n).txout = s.txout ∧ (s.spend n).rxq = s.rxq ∧
    (s.spend n).srBufCap = s.srBufCap ∧ (s.spend n).inputs = s.inputs ∧ (s.spend n).hostReads = s.hostReads ∧
    (s.spend n).draws = s.draws ∧ (s.spend n).drawCount = s.drawCount + n :=
  by simp only [State.spend, and_self]

@[simp] theorem State.raise_fields (s : State) (c : Cause) :
    (s.raise c).cmd = s.cmd ∧ (s.raise c).ctrl = s.ctrl ∧ (s.raise c).err = c.code ∧ (s.raise c).esub = c.sub ∧
    (s.raise c).status = s.status ∧ (s.raise c).sv = s.sv ∧ (s.raise c).sra = s.sra ∧ (s.raise c).pv = s.pv ∧
    (s.raise c).rspAddr = s.rspAddr ∧ (s.raise c).aAddr = s.aAddr ∧ (s.raise c).aInstr = s.aInstr ∧
    (s.raise c).aReg = s.aReg ∧ (s.raise c).aLen = s.aLen ∧ (s.raise c).aCnt = s.aCnt ∧ (s.raise c).aIdx = s.aIdx ∧
    (s.raise c).aSbit = s.aSbit ∧ (s.raise c).aWord = s.aWord ∧ (s.raise c).aVal = s.aVal ∧
    (s.raise c).result = s.result ∧ (s.raise c).txlen = s.txlen ∧ (s.raise c).rxlen = s.rxlen ∧
    (s.raise c).srN = s.srN ∧ (s.raise c).srL = s.srL ∧ (s.raise c).srSize = s.srSize ∧
    (s.raise c).srRawlen = s.srRawlen ∧ (s.raise c).srCur = s.srCur ∧ (s.raise c).hbuf = s.hbuf ∧
    (s.raise c).txbuf = s.txbuf ∧ (s.raise c).rxbuf = s.rxbuf ∧ (s.raise c).srbuf = s.srbuf ∧
    (s.raise c).pkt = s.pkt ∧ (s.raise c).txout = s.txout ∧ (s.raise c).rxq = s.rxq ∧
    (s.raise c).srBufCap = s.srBufCap ∧ (s.raise c).inputs = s.inputs ∧ (s.raise c).hostReads = s.hostReads ∧
    (s.raise c).draws = s.draws ∧ (s.raise c).drawCount = s.drawCount :=
  by simp only [State.raise, and_self]

@[simp] theorem State.succeed_fields (s : State) :
    (s.succeed).cmd = s.cmd ∧ (s.succeed).ctrl = s.ctrl ∧ (s.succeed).err = 0x00 ∧ (s.succeed).esub = 0x00 ∧
    (s.succeed).status = s.status ∧ (s.succeed).sv = s.sv ∧ (s.succeed).sra = s.sra ∧ (s.succeed).pv = s.pv ∧
    (s.succeed).rspAddr = s.rspAddr ∧ (s.succeed).aAddr = s.aAddr ∧ (s.succeed).aInstr = s.aInstr ∧
    (s.succeed).aReg = s.aReg ∧ (s.succeed).aLen = s.aLen ∧ (s.succeed).aCnt = s.aCnt ∧ (s.succeed).aIdx = s.aIdx ∧
    (s.succeed).aSbit = s.aSbit ∧ (s.succeed).aWord = s.aWord ∧ (s.succeed).aVal = s.aVal ∧
    (s.succeed).result = s.result ∧ (s.succeed).txlen = s.txlen ∧ (s.succeed).rxlen = s.rxlen ∧
    (s.succeed).srN = s.srN ∧ (s.succeed).srL = s.srL ∧ (s.succeed).srSize = s.srSize ∧
    (s.succeed).srRawlen = s.srRawlen ∧ (s.succeed).srCur = s.srCur ∧ (s.succeed).hbuf = s.hbuf ∧
    (s.succeed).txbuf = s.txbuf ∧ (s.succeed).rxbuf = s.rxbuf ∧ (s.succeed).srbuf = s.srbuf ∧
    (s.succeed).pkt = s.pkt ∧ (s.succeed).txout = s.txout ∧ (s.succeed).rxq = s.rxq ∧
    (s.succeed).srBufCap = s.srBufCap ∧ (s.succeed).inputs = s.inputs ∧ (s.succeed).hostReads = s.hostReads ∧
    (s.succeed).draws = s.draws ∧ (s.succeed).drawCount = s.drawCount :=
  by simp only [State.succeed, and_self]

@[simp] theorem State.setResult_fields (s : State) (v : Word) :
    (s.setResult v).cmd = s.cmd ∧ (s.setResult v).ctrl = s.ctrl ∧ (s.setResult v).err = s.err ∧
    (s.setResult v).esub = s.esub ∧ (s.setResult v).status = s.status ∧ (s.setResult v).sv = s.sv ∧
    (s.setResult v).sra = s.sra ∧ (s.setResult v).pv = s.pv ∧ (s.setResult v).rspAddr = s.rspAddr ∧
    (s.setResult v).aAddr = s.aAddr ∧ (s.setResult v).aInstr = s.aInstr ∧ (s.setResult v).aReg = s.aReg ∧
    (s.setResult v).aLen = s.aLen ∧ (s.setResult v).aCnt = s.aCnt ∧ (s.setResult v).aIdx = s.aIdx ∧
    (s.setResult v).aSbit = s.aSbit ∧ (s.setResult v).aWord = s.aWord ∧ (s.setResult v).aVal = s.aVal ∧
    (s.setResult v).result = v ∧ (s.setResult v).txlen = s.txlen ∧ (s.setResult v).rxlen = s.rxlen ∧
    (s.setResult v).srN = s.srN ∧ (s.setResult v).srL = s.srL ∧ (s.setResult v).srSize = s.srSize ∧
    (s.setResult v).srRawlen = s.srRawlen ∧ (s.setResult v).srCur = s.srCur ∧ (s.setResult v).hbuf = s.hbuf ∧
    (s.setResult v).txbuf = s.txbuf ∧ (s.setResult v).rxbuf = s.rxbuf ∧ (s.setResult v).srbuf = s.srbuf ∧
    (s.setResult v).pkt = s.pkt ∧ (s.setResult v).txout = s.txout ∧ (s.setResult v).rxq = s.rxq ∧
    (s.setResult v).srBufCap = s.srBufCap ∧ (s.setResult v).inputs = s.inputs ∧
    (s.setResult v).hostReads = s.hostReads ∧ (s.setResult v).draws = s.draws ∧
    (s.setResult v).drawCount = s.drawCount :=
  by simp only [State.setResult, and_self]

@[simp] theorem State.txEmit_fields (s : State) (f : List Byte) :
    (s.txEmit f).cmd = s.cmd ∧ (s.txEmit f).ctrl = s.ctrl ∧ (s.txEmit f).err = s.err ∧ (s.txEmit f).esub = s.esub ∧
    (s.txEmit f).status = s.status ∧ (s.txEmit f).sv = s.sv ∧ (s.txEmit f).sra = s.sra ∧ (s.txEmit f).pv = s.pv ∧
    (s.txEmit f).rspAddr = s.rspAddr ∧ (s.txEmit f).aAddr = s.aAddr ∧ (s.txEmit f).aInstr = s.aInstr ∧
    (s.txEmit f).aReg = s.aReg ∧ (s.txEmit f).aLen = s.aLen ∧ (s.txEmit f).aCnt = s.aCnt ∧
    (s.txEmit f).aIdx = s.aIdx ∧ (s.txEmit f).aSbit = s.aSbit ∧ (s.txEmit f).aWord = s.aWord ∧
    (s.txEmit f).aVal = s.aVal ∧ (s.txEmit f).result = s.result ∧ (s.txEmit f).txlen = s.txlen ∧
    (s.txEmit f).rxlen = s.rxlen ∧ (s.txEmit f).srN = s.srN ∧ (s.txEmit f).srL = s.srL ∧
    (s.txEmit f).srSize = s.srSize ∧ (s.txEmit f).srRawlen = s.srRawlen ∧ (s.txEmit f).srCur = s.srCur ∧
    (s.txEmit f).hbuf = s.hbuf ∧ (s.txEmit f).txbuf = s.txbuf ∧ (s.txEmit f).rxbuf = s.rxbuf ∧
    (s.txEmit f).srbuf = s.srbuf ∧ (s.txEmit f).pkt = s.pkt ∧ (s.txEmit f).txout = s.txout ++ f ∧
    (s.txEmit f).rxq = s.rxq ∧ (s.txEmit f).srBufCap = s.srBufCap ∧ (s.txEmit f).inputs = s.inputs ∧
    (s.txEmit f).hostReads = s.hostReads ∧ (s.txEmit f).draws = s.draws ∧ (s.txEmit f).drawCount = s.drawCount :=
  by simp only [State.txEmit, and_self]

@[simp] theorem State.rxFlush_fields (s : State) :
    (s.rxFlush).cmd = s.cmd ∧ (s.rxFlush).ctrl = s.ctrl ∧ (s.rxFlush).err = s.err ∧ (s.rxFlush).esub = s.esub ∧
    (s.rxFlush).status = s.status ∧ (s.rxFlush).sv = s.sv ∧ (s.rxFlush).sra = s.sra ∧ (s.rxFlush).pv = s.pv ∧
    (s.rxFlush).rspAddr = s.rspAddr ∧ (s.rxFlush).aAddr = s.aAddr ∧ (s.rxFlush).aInstr = s.aInstr ∧
    (s.rxFlush).aReg = s.aReg ∧ (s.rxFlush).aLen = s.aLen ∧ (s.rxFlush).aCnt = s.aCnt ∧ (s.rxFlush).aIdx = s.aIdx ∧
    (s.rxFlush).aSbit = s.aSbit ∧ (s.rxFlush).aWord = s.aWord ∧ (s.rxFlush).aVal = s.aVal ∧
    (s.rxFlush).result = s.result ∧ (s.rxFlush).txlen = s.txlen ∧ (s.rxFlush).rxlen = s.rxlen ∧
    (s.rxFlush).srN = s.srN ∧ (s.rxFlush).srL = s.srL ∧ (s.rxFlush).srSize = s.srSize ∧
    (s.rxFlush).srRawlen = s.srRawlen ∧ (s.rxFlush).srCur = s.srCur ∧ (s.rxFlush).hbuf = s.hbuf ∧
    (s.rxFlush).txbuf = s.txbuf ∧ (s.rxFlush).rxbuf = s.rxbuf ∧ (s.rxFlush).srbuf = s.srbuf ∧
    (s.rxFlush).pkt = s.pkt ∧ (s.rxFlush).txout = s.txout ∧ (s.rxFlush).rxq = [] ∧ (s.rxFlush).srBufCap = s.srBufCap ∧
    (s.rxFlush).inputs = s.inputs ∧ (s.rxFlush).hostReads = s.hostReads ∧ (s.rxFlush).draws = s.draws ∧
    (s.rxFlush).drawCount = s.drawCount :=
  by simp only [State.rxFlush, and_self]

@[simp] theorem State.rxRest_fields (s : State) (m : Nat) :
    (s.rxRest m).cmd = s.cmd ∧ (s.rxRest m).ctrl = s.ctrl ∧ (s.rxRest m).err = s.err ∧ (s.rxRest m).esub = s.esub ∧
    (s.rxRest m).status = s.status ∧ (s.rxRest m).sv = s.sv ∧ (s.rxRest m).sra = s.sra ∧ (s.rxRest m).pv = s.pv ∧
    (s.rxRest m).rspAddr = s.rspAddr ∧ (s.rxRest m).aAddr = s.aAddr ∧ (s.rxRest m).aInstr = s.aInstr ∧
    (s.rxRest m).aReg = s.aReg ∧ (s.rxRest m).aLen = s.aLen ∧ (s.rxRest m).aCnt = s.aCnt ∧
    (s.rxRest m).aIdx = s.aIdx ∧ (s.rxRest m).aSbit = s.aSbit ∧ (s.rxRest m).aWord = s.aWord ∧
    (s.rxRest m).aVal = s.aVal ∧ (s.rxRest m).result = s.result ∧ (s.rxRest m).txlen = s.txlen ∧
    (s.rxRest m).rxlen = s.rxlen ∧ (s.rxRest m).srN = s.srN ∧ (s.rxRest m).srL = s.srL ∧
    (s.rxRest m).srSize = s.srSize ∧ (s.rxRest m).srRawlen = s.srRawlen ∧ (s.rxRest m).srCur = s.srCur ∧
    (s.rxRest m).hbuf = s.hbuf ∧ (s.rxRest m).txbuf = s.txbuf ∧ (s.rxRest m).rxbuf = s.rxbuf ∧
    (s.rxRest m).srbuf = s.srbuf ∧ (s.rxRest m).pkt = s.pkt ∧ (s.rxRest m).txout = s.txout ∧
    (s.rxRest m).rxq = (s.rxq ++ s.arrivals).drop m ∧ (s.rxRest m).srBufCap = s.srBufCap ∧
    (s.rxRest m).inputs = s.inputs ∧ (s.rxRest m).hostReads = s.hostReads ∧ (s.rxRest m).draws = s.draws.tail ∧
    (s.rxRest m).drawCount = s.drawCount + 1 :=
  by simp only [State.rxRest, and_self]

@[simp] theorem State.arrive_fields (s : State) (bytes : List Byte) :
    (s.arrive bytes).cmd = s.cmd ∧ (s.arrive bytes).ctrl = s.ctrl ∧ (s.arrive bytes).err = s.err ∧
    (s.arrive bytes).esub = s.esub ∧ (s.arrive bytes).status = s.status ∧ (s.arrive bytes).sv = s.sv ∧
    (s.arrive bytes).sra = s.sra ∧ (s.arrive bytes).pv = s.pv ∧ (s.arrive bytes).rspAddr = s.rspAddr ∧
    (s.arrive bytes).aAddr = s.aAddr ∧ (s.arrive bytes).aInstr = s.aInstr ∧ (s.arrive bytes).aReg = s.aReg ∧
    (s.arrive bytes).aLen = s.aLen ∧ (s.arrive bytes).aCnt = s.aCnt ∧ (s.arrive bytes).aIdx = s.aIdx ∧
    (s.arrive bytes).aSbit = s.aSbit ∧ (s.arrive bytes).aWord = s.aWord ∧ (s.arrive bytes).aVal = s.aVal ∧
    (s.arrive bytes).result = s.result ∧ (s.arrive bytes).txlen = s.txlen ∧ (s.arrive bytes).rxlen = s.rxlen ∧
    (s.arrive bytes).srN = s.srN ∧ (s.arrive bytes).srL = s.srL ∧ (s.arrive bytes).srSize = s.srSize ∧
    (s.arrive bytes).srRawlen = s.srRawlen ∧ (s.arrive bytes).srCur = s.srCur ∧ (s.arrive bytes).hbuf = s.hbuf ∧
    (s.arrive bytes).txbuf = s.txbuf ∧ (s.arrive bytes).rxbuf = s.rxbuf ∧ (s.arrive bytes).srbuf = s.srbuf ∧
    (s.arrive bytes).pkt = s.pkt ∧ (s.arrive bytes).txout = s.txout ∧ (s.arrive bytes).rxq = s.rxq ++ bytes ∧
    (s.arrive bytes).srBufCap = s.srBufCap ∧ (s.arrive bytes).inputs = s.inputs ∧
    (s.arrive bytes).hostReads = s.hostReads ∧ (s.arrive bytes).draws = s.draws ∧
    (s.arrive bytes).drawCount = s.drawCount :=
  by simp only [State.arrive, and_self]

@[simp] theorem State.placeFrame_fields (s : State) (f : List Byte) :
    (s.placeFrame f).cmd = s.cmd ∧ (s.placeFrame f).ctrl = s.ctrl ∧ (s.placeFrame f).err = s.err ∧
    (s.placeFrame f).esub = s.esub ∧ (s.placeFrame f).status = s.status ∧ (s.placeFrame f).sv = s.sv ∧
    (s.placeFrame f).sra = s.sra ∧ (s.placeFrame f).pv = s.pv ∧ (s.placeFrame f).rspAddr = s.rspAddr ∧
    (s.placeFrame f).aAddr = s.aAddr ∧ (s.placeFrame f).aInstr = s.aInstr ∧ (s.placeFrame f).aReg = s.aReg ∧
    (s.placeFrame f).aLen = s.aLen ∧ (s.placeFrame f).aCnt = s.aCnt ∧ (s.placeFrame f).aIdx = s.aIdx ∧
    (s.placeFrame f).aSbit = s.aSbit ∧ (s.placeFrame f).aWord = s.aWord ∧ (s.placeFrame f).aVal = s.aVal ∧
    (s.placeFrame f).result = s.result ∧ (s.placeFrame f).txlen = BitVec.ofNat 8 f.length ∧
    (s.placeFrame f).rxlen = s.rxlen ∧ (s.placeFrame f).srN = s.srN ∧ (s.placeFrame f).srL = s.srL ∧
    (s.placeFrame f).srSize = s.srSize ∧ (s.placeFrame f).srRawlen = s.srRawlen ∧ (s.placeFrame f).srCur = s.srCur ∧
    (s.placeFrame f).hbuf = s.hbuf ∧ (s.placeFrame f).txbuf = s.txbuf.write 0 f ∧ (s.placeFrame f).rxbuf = s.rxbuf ∧
    (s.placeFrame f).srbuf = s.srbuf ∧ (s.placeFrame f).pkt = s.pkt ∧ (s.placeFrame f).txout = s.txout ∧
    (s.placeFrame f).rxq = s.rxq ∧ (s.placeFrame f).srBufCap = s.srBufCap ∧ (s.placeFrame f).inputs = s.inputs ∧
    (s.placeFrame f).hostReads = s.hostReads ∧ (s.placeFrame f).draws = s.draws ∧
    (s.placeFrame f).drawCount = s.drawCount :=
  by simp only [State.placeFrame, and_self]

@[simp] theorem State.placeReceived_fields (s : State) (r : List Byte) :
    (s.placeReceived r).cmd = s.cmd ∧ (s.placeReceived r).ctrl = s.ctrl ∧ (s.placeReceived r).err = s.err ∧
    (s.placeReceived r).esub = s.esub ∧ (s.placeReceived r).status = s.status ∧ (s.placeReceived r).sv = s.sv ∧
    (s.placeReceived r).sra = s.sra ∧ (s.placeReceived r).pv = s.pv ∧ (s.placeReceived r).rspAddr = s.rspAddr ∧
    (s.placeReceived r).aAddr = s.aAddr ∧ (s.placeReceived r).aInstr = s.aInstr ∧ (s.placeReceived r).aReg = s.aReg ∧
    (s.placeReceived r).aLen = s.aLen ∧ (s.placeReceived r).aCnt = s.aCnt ∧ (s.placeReceived r).aIdx = s.aIdx ∧
    (s.placeReceived r).aSbit = s.aSbit ∧ (s.placeReceived r).aWord = s.aWord ∧ (s.placeReceived r).aVal = s.aVal ∧
    (s.placeReceived r).result = s.result ∧ (s.placeReceived r).txlen = s.txlen ∧
    (s.placeReceived r).rxlen = BitVec.ofNat 8 r.length ∧ (s.placeReceived r).srN = s.srN ∧
    (s.placeReceived r).srL = s.srL ∧ (s.placeReceived r).srSize = s.srSize ∧
    (s.placeReceived r).srRawlen = s.srRawlen ∧ (s.placeReceived r).srCur = s.srCur ∧
    (s.placeReceived r).hbuf = s.hbuf ∧ (s.placeReceived r).txbuf = s.txbuf ∧
    (s.placeReceived r).rxbuf = s.rxbuf.write 0 r ∧ (s.placeReceived r).srbuf = s.srbuf ∧
    (s.placeReceived r).pkt = s.pkt ∧ (s.placeReceived r).txout = s.txout ∧ (s.placeReceived r).rxq = s.rxq ∧
    (s.placeReceived r).srBufCap = s.srBufCap ∧ (s.placeReceived r).inputs = s.inputs ∧
    (s.placeReceived r).hostReads = s.hostReads ∧ (s.placeReceived r).draws = s.draws ∧
    (s.placeReceived r).drawCount = s.drawCount :=
  by simp only [State.placeReceived, and_self]

@[simp] theorem State.observe_fields (s : State) (r : Response) :
    (s.observe r).cmd = s.cmd ∧ (s.observe r).ctrl = s.ctrl ∧ (s.observe r).err = s.err ∧
    (s.observe r).esub = s.esub ∧ (s.observe r).status = r.status ∧ (s.observe r).sv = true ∧
    (s.observe r).sra = s.sra ∧ (s.observe r).pv = s.pv ∧ (s.observe r).rspAddr = r.address ∧
    (s.observe r).aAddr = s.aAddr ∧ (s.observe r).aInstr = s.aInstr ∧ (s.observe r).aReg = s.aReg ∧
    (s.observe r).aLen = s.aLen ∧ (s.observe r).aCnt = s.aCnt ∧ (s.observe r).aIdx = s.aIdx ∧
    (s.observe r).aSbit = s.aSbit ∧ (s.observe r).aWord = s.aWord ∧ (s.observe r).aVal = s.aVal ∧
    (s.observe r).result = s.result ∧ (s.observe r).txlen = s.txlen ∧ (s.observe r).rxlen = s.rxlen ∧
    (s.observe r).srN = s.srN ∧ (s.observe r).srL = s.srL ∧ (s.observe r).srSize = s.srSize ∧
    (s.observe r).srRawlen = s.srRawlen ∧ (s.observe r).srCur = s.srCur ∧ (s.observe r).hbuf = s.hbuf ∧
    (s.observe r).txbuf = s.txbuf ∧ (s.observe r).rxbuf = s.rxbuf ∧ (s.observe r).srbuf = s.srbuf ∧
    (s.observe r).pkt = s.pkt ∧ (s.observe r).txout = s.txout ∧ (s.observe r).rxq = s.rxq ∧
    (s.observe r).srBufCap = s.srBufCap ∧ (s.observe r).inputs = s.inputs ∧ (s.observe r).hostReads = s.hostReads ∧
    (s.observe r).draws = s.draws ∧ (s.observe r).drawCount = s.drawCount :=
  by simp only [State.observe, and_self]

@[simp] theorem State.observeNothing_fields (s : State) :
    (s.observeNothing).cmd = s.cmd ∧ (s.observeNothing).ctrl = s.ctrl ∧ (s.observeNothing).err = s.err ∧
    (s.observeNothing).esub = s.esub ∧ (s.observeNothing).status = s.status ∧ (s.observeNothing).sv = false ∧
    (s.observeNothing).sra = s.sra ∧ (s.observeNothing).pv = s.pv ∧ (s.observeNothing).rspAddr = s.rspAddr ∧
    (s.observeNothing).aAddr = s.aAddr ∧ (s.observeNothing).aInstr = s.aInstr ∧ (s.observeNothing).aReg = s.aReg ∧
    (s.observeNothing).aLen = s.aLen ∧ (s.observeNothing).aCnt = s.aCnt ∧ (s.observeNothing).aIdx = s.aIdx ∧
    (s.observeNothing).aSbit = s.aSbit ∧ (s.observeNothing).aWord = s.aWord ∧ (s.observeNothing).aVal = s.aVal ∧
    (s.observeNothing).result = s.result ∧ (s.observeNothing).txlen = s.txlen ∧ (s.observeNothing).rxlen = s.rxlen ∧
    (s.observeNothing).srN = s.srN ∧ (s.observeNothing).srL = s.srL ∧ (s.observeNothing).srSize = s.srSize ∧
    (s.observeNothing).srRawlen = s.srRawlen ∧ (s.observeNothing).srCur = s.srCur ∧ (s.observeNothing).hbuf = s.hbuf ∧
    (s.observeNothing).txbuf = s.txbuf ∧ (s.observeNothing).rxbuf = s.rxbuf ∧ (s.observeNothing).srbuf = s.srbuf ∧
    (s.observeNothing).pkt = s.pkt ∧ (s.observeNothing).txout = s.txout ∧ (s.observeNothing).rxq = s.rxq ∧
    (s.observeNothing).srBufCap = s.srBufCap ∧ (s.observeNothing).inputs = s.inputs ∧
    (s.observeNothing).hostReads = s.hostReads ∧ (s.observeNothing).draws = s.draws ∧
    (s.observeNothing).drawCount = s.drawCount :=
  by simp only [State.observeNothing, and_self]

@[simp] theorem State.dropPacket_fields (s : State) :
    (s.dropPacket).cmd = s.cmd ∧ (s.dropPacket).ctrl = s.ctrl ∧ (s.dropPacket).err = s.err ∧
    (s.dropPacket).esub = s.esub ∧ (s.dropPacket).status = s.status ∧ (s.dropPacket).sv = s.sv ∧
    (s.dropPacket).sra = s.sra ∧ (s.dropPacket).pv = false ∧ (s.dropPacket).rspAddr = s.rspAddr ∧
    (s.dropPacket).aAddr = s.aAddr ∧ (s.dropPacket).aInstr = s.aInstr ∧ (s.dropPacket).aReg = s.aReg ∧
    (s.dropPacket).aLen = s.aLen ∧ (s.dropPacket).aCnt = s.aCnt ∧ (s.dropPacket).aIdx = s.aIdx ∧
    (s.dropPacket).aSbit = s.aSbit ∧ (s.dropPacket).aWord = s.aWord ∧ (s.dropPacket).aVal = s.aVal ∧
    (s.dropPacket).result = s.result ∧ (s.dropPacket).txlen = s.txlen ∧ (s.dropPacket).rxlen = s.rxlen ∧
    (s.dropPacket).srN = s.srN ∧ (s.dropPacket).srL = s.srL ∧ (s.dropPacket).srSize = s.srSize ∧
    (s.dropPacket).srRawlen = s.srRawlen ∧ (s.dropPacket).srCur = s.srCur ∧ (s.dropPacket).hbuf = s.hbuf ∧
    (s.dropPacket).txbuf = s.txbuf ∧ (s.dropPacket).rxbuf = s.rxbuf ∧ (s.dropPacket).srbuf = s.srbuf ∧
    (s.dropPacket).pkt = Memory.unspecified ∧ (s.dropPacket).txout = s.txout ∧ (s.dropPacket).rxq = s.rxq ∧
    (s.dropPacket).srBufCap = s.srBufCap ∧ (s.dropPacket).inputs = s.inputs ∧ (s.dropPacket).hostReads = s.hostReads ∧
    (s.dropPacket).draws = s.draws ∧ (s.dropPacket).drawCount = s.drawCount :=
  by simp only [State.dropPacket, and_self]

@[simp] theorem State.clearSession_fields (s : State) :
    (s.clearSession).cmd = s.cmd ∧ (s.clearSession).ctrl = s.ctrl ∧ (s.clearSession).err = s.err ∧
    (s.clearSession).esub = s.esub ∧ (s.clearSession).status = s.status ∧ (s.clearSession).sv = s.sv ∧
    (s.clearSession).sra = false ∧ (s.clearSession).pv = false ∧ (s.clearSession).rspAddr = s.rspAddr ∧
    (s.clearSession).aAddr = s.aAddr ∧ (s.clearSession).aInstr = s.aInstr ∧ (s.clearSession).aReg = s.aReg ∧
    (s.clearSession).aLen = s.aLen ∧ (s.clearSession).aCnt = s.aCnt ∧ (s.clearSession).aIdx = s.aIdx ∧
    (s.clearSession).aSbit = s.aSbit ∧ (s.clearSession).aWord = s.aWord ∧ (s.clearSession).aVal = s.aVal ∧
    (s.clearSession).result = s.result ∧ (s.clearSession).txlen = s.txlen ∧ (s.clearSession).rxlen = s.rxlen ∧
    (s.clearSession).srN = 0 ∧ (s.clearSession).srL = 0 ∧ (s.clearSession).srSize = 0 ∧
    (s.clearSession).srRawlen = 0 ∧ (s.clearSession).srCur = 0 ∧ (s.clearSession).hbuf = s.hbuf ∧
    (s.clearSession).txbuf = s.txbuf ∧ (s.clearSession).rxbuf = s.rxbuf ∧
    (s.clearSession).srbuf = Memory.unspecified ∧ (s.clearSession).pkt = Memory.unspecified ∧
    (s.clearSession).txout = s.txout ∧ (s.clearSession).rxq = s.rxq ∧ (s.clearSession).srBufCap = s.srBufCap ∧
    (s.clearSession).inputs = s.inputs ∧ (s.clearSession).hostReads = s.hostReads ∧ (s.clearSession).draws = s.draws ∧
    (s.clearSession).drawCount = s.drawCount :=
  by simp only [State.clearSession, and_self]

@[simp] theorem State.startSession_fields (s : State) (n l : Byte) :
    (s.startSession n l).cmd = s.cmd ∧ (s.startSession n l).ctrl = s.ctrl ∧ (s.startSession n l).err = s.err ∧
    (s.startSession n l).esub = s.esub ∧ (s.startSession n l).status = s.status ∧ (s.startSession n l).sv = s.sv ∧
    (s.startSession n l).sra = true ∧ (s.startSession n l).pv = false ∧ (s.startSession n l).rspAddr = s.rspAddr ∧
    (s.startSession n l).aAddr = s.aAddr ∧ (s.startSession n l).aInstr = s.aInstr ∧
    (s.startSession n l).aReg = s.aReg ∧ (s.startSession n l).aLen = s.aLen ∧ (s.startSession n l).aCnt = s.aCnt ∧
    (s.startSession n l).aIdx = s.aIdx ∧ (s.startSession n l).aSbit = s.aSbit ∧ (s.startSession n l).aWord = s.aWord ∧
    (s.startSession n l).aVal = s.aVal ∧ (s.startSession n l).result = s.result ∧
    (s.startSession n l).txlen = s.txlen ∧ (s.startSession n l).rxlen = s.rxlen ∧ (s.startSession n l).srN = n ∧
    (s.startSession n l).srL = l ∧ (s.startSession n l).srSize = BitVec.ofNat 16 (n.toNat * (l.toNat + 6)) ∧
    (s.startSession n l).srRawlen = 0 ∧ (s.startSession n l).srCur = 0 ∧ (s.startSession n l).hbuf = s.hbuf ∧
    (s.startSession n l).txbuf = s.txbuf ∧ (s.startSession n l).rxbuf = s.rxbuf ∧
    (s.startSession n l).srbuf = s.srbuf ∧ (s.startSession n l).pkt = s.pkt ∧ (s.startSession n l).txout = s.txout ∧
    (s.startSession n l).rxq = s.rxq ∧ (s.startSession n l).srBufCap = s.srBufCap ∧
    (s.startSession n l).inputs = s.inputs ∧ (s.startSession n l).hostReads = s.hostReads ∧
    (s.startSession n l).draws = s.draws ∧ (s.startSession n l).drawCount = s.drawCount :=
  by simp only [State.startSession, and_self]

@[simp] theorem State.returnToHost_fields (s : State) (v : Word) :
    (s.returnToHost v).cmd = s.cmd ∧ (s.returnToHost v).ctrl = s.ctrl ∧ (s.returnToHost v).err = s.err ∧
    (s.returnToHost v).esub = s.esub ∧ (s.returnToHost v).status = s.status ∧ (s.returnToHost v).sv = s.sv ∧
    (s.returnToHost v).sra = s.sra ∧ (s.returnToHost v).pv = s.pv ∧ (s.returnToHost v).rspAddr = s.rspAddr ∧
    (s.returnToHost v).aAddr = s.aAddr ∧ (s.returnToHost v).aInstr = s.aInstr ∧ (s.returnToHost v).aReg = s.aReg ∧
    (s.returnToHost v).aLen = s.aLen ∧ (s.returnToHost v).aCnt = s.aCnt ∧ (s.returnToHost v).aIdx = s.aIdx ∧
    (s.returnToHost v).aSbit = s.aSbit ∧ (s.returnToHost v).aWord = s.aWord ∧ (s.returnToHost v).aVal = s.aVal ∧
    (s.returnToHost v).result = s.result ∧ (s.returnToHost v).txlen = s.txlen ∧ (s.returnToHost v).rxlen = s.rxlen ∧
    (s.returnToHost v).srN = s.srN ∧ (s.returnToHost v).srL = s.srL ∧ (s.returnToHost v).srSize = s.srSize ∧
    (s.returnToHost v).srRawlen = s.srRawlen ∧ (s.returnToHost v).srCur = s.srCur ∧ (s.returnToHost v).hbuf = s.hbuf ∧
    (s.returnToHost v).txbuf = s.txbuf ∧ (s.returnToHost v).rxbuf = s.rxbuf ∧ (s.returnToHost v).srbuf = s.srbuf ∧
    (s.returnToHost v).pkt = s.pkt ∧ (s.returnToHost v).txout = s.txout ∧ (s.returnToHost v).rxq = s.rxq ∧
    (s.returnToHost v).srBufCap = s.srBufCap ∧ (s.returnToHost v).inputs = s.inputs ∧
    (s.returnToHost v).hostReads = s.hostReads ++ [v] ∧ (s.returnToHost v).draws = s.draws ∧
    (s.returnToHost v).drawCount = s.drawCount :=
  by simp only [State.returnToHost, and_self]

@[simp] theorem State.writeHostByte_fields (s : State) (i : Nat) (v : Byte) :
    (s.writeHostByte i v).cmd = s.cmd ∧ (s.writeHostByte i v).ctrl = s.ctrl ∧ (s.writeHostByte i v).err = s.err ∧
    (s.writeHostByte i v).esub = s.esub ∧ (s.writeHostByte i v).status = s.status ∧ (s.writeHostByte i v).sv = s.sv ∧
    (s.writeHostByte i v).sra = s.sra ∧ (s.writeHostByte i v).pv = s.pv ∧ (s.writeHostByte i v).rspAddr = s.rspAddr ∧
    (s.writeHostByte i v).aAddr = s.aAddr ∧ (s.writeHostByte i v).aInstr = s.aInstr ∧
    (s.writeHostByte i v).aReg = s.aReg ∧ (s.writeHostByte i v).aLen = s.aLen ∧ (s.writeHostByte i v).aCnt = s.aCnt ∧
    (s.writeHostByte i v).aIdx = s.aIdx ∧ (s.writeHostByte i v).aSbit = s.aSbit ∧
    (s.writeHostByte i v).aWord = s.aWord ∧ (s.writeHostByte i v).aVal = s.aVal ∧
    (s.writeHostByte i v).result = s.result ∧ (s.writeHostByte i v).txlen = s.txlen ∧
    (s.writeHostByte i v).rxlen = s.rxlen ∧ (s.writeHostByte i v).srN = s.srN ∧ (s.writeHostByte i v).srL = s.srL ∧
    (s.writeHostByte i v).srSize = s.srSize ∧ (s.writeHostByte i v).srRawlen = s.srRawlen ∧
    (s.writeHostByte i v).srCur = s.srCur ∧ (s.writeHostByte i v).hbuf = s.hbuf.write i [v] ∧
    (s.writeHostByte i v).txbuf = s.txbuf ∧ (s.writeHostByte i v).rxbuf = s.rxbuf ∧
    (s.writeHostByte i v).srbuf = s.srbuf ∧ (s.writeHostByte i v).pkt = s.pkt ∧
    (s.writeHostByte i v).txout = s.txout ∧ (s.writeHostByte i v).rxq = s.rxq ∧
    (s.writeHostByte i v).srBufCap = s.srBufCap ∧ (s.writeHostByte i v).inputs = s.inputs ∧
    (s.writeHostByte i v).hostReads = s.hostReads ∧ (s.writeHostByte i v).draws = s.draws ∧
    (s.writeHostByte i v).drawCount = s.drawCount :=
  by simp only [State.writeHostByte, and_self]

@[simp] theorem State.fail_fields (s : State) (c : Cause) :
    (s.fail c).cmd = s.cmd ∧ (s.fail c).ctrl = s.ctrl ∧ (s.fail c).err = c.code ∧ (s.fail c).esub = c.sub ∧
    (s.fail c).status = s.status ∧ (s.fail c).sv = s.sv ∧ (s.fail c).sra = s.sra ∧ (s.fail c).pv = s.pv ∧
    (s.fail c).rspAddr = s.rspAddr ∧ (s.fail c).aAddr = s.aAddr ∧ (s.fail c).aInstr = s.aInstr ∧
    (s.fail c).aReg = s.aReg ∧ (s.fail c).aLen = s.aLen ∧ (s.fail c).aCnt = s.aCnt ∧ (s.fail c).aIdx = s.aIdx ∧
    (s.fail c).aSbit = s.aSbit ∧ (s.fail c).aWord = s.aWord ∧ (s.fail c).aVal = s.aVal ∧ (s.fail c).result = 0 ∧
    (s.fail c).txlen = s.txlen ∧ (s.fail c).rxlen = s.rxlen ∧ (s.fail c).srN = s.srN ∧ (s.fail c).srL = s.srL ∧
    (s.fail c).srSize = s.srSize ∧ (s.fail c).srRawlen = s.srRawlen ∧ (s.fail c).srCur = s.srCur ∧
    (s.fail c).hbuf = s.hbuf ∧ (s.fail c).txbuf = s.txbuf ∧ (s.fail c).rxbuf = s.rxbuf ∧ (s.fail c).srbuf = s.srbuf ∧
    (s.fail c).pkt = s.pkt ∧ (s.fail c).txout = s.txout ∧ (s.fail c).rxq = s.rxq ∧ (s.fail c).srBufCap = s.srBufCap ∧
    (s.fail c).inputs = s.inputs ∧ (s.fail c).hostReads = s.hostReads ∧ (s.fail c).draws = s.draws ∧
    (s.fail c).drawCount = s.drawCount :=
  by simp only [State.fail, State.setResult, State.raise, and_self]

@[simp] theorem State.failBeforeSend_fields (s : State) (c : Cause) :
    (s.failBeforeSend c).cmd = s.cmd ∧ (s.failBeforeSend c).ctrl = s.ctrl ∧ (s.failBeforeSend c).err = c.code ∧
    (s.failBeforeSend c).esub = c.sub ∧ (s.failBeforeSend c).status = s.status ∧ (s.failBeforeSend c).sv = false ∧
    (s.failBeforeSend c).sra = s.sra ∧ (s.failBeforeSend c).pv = s.pv ∧ (s.failBeforeSend c).rspAddr = s.rspAddr ∧
    (s.failBeforeSend c).aAddr = s.aAddr ∧ (s.failBeforeSend c).aInstr = s.aInstr ∧
    (s.failBeforeSend c).aReg = s.aReg ∧ (s.failBeforeSend c).aLen = s.aLen ∧ (s.failBeforeSend c).aCnt = s.aCnt ∧
    (s.failBeforeSend c).aIdx = s.aIdx ∧ (s.failBeforeSend c).aSbit = s.aSbit ∧ (s.failBeforeSend c).aWord = s.aWord ∧
    (s.failBeforeSend c).aVal = s.aVal ∧ (s.failBeforeSend c).result = 0 ∧ (s.failBeforeSend c).txlen = s.txlen ∧
    (s.failBeforeSend c).rxlen = s.rxlen ∧ (s.failBeforeSend c).srN = s.srN ∧ (s.failBeforeSend c).srL = s.srL ∧
    (s.failBeforeSend c).srSize = s.srSize ∧ (s.failBeforeSend c).srRawlen = s.srRawlen ∧
    (s.failBeforeSend c).srCur = s.srCur ∧ (s.failBeforeSend c).hbuf = s.hbuf ∧ (s.failBeforeSend c).txbuf = s.txbuf ∧
    (s.failBeforeSend c).rxbuf = s.rxbuf ∧ (s.failBeforeSend c).srbuf = s.srbuf ∧ (s.failBeforeSend c).pkt = s.pkt ∧
    (s.failBeforeSend c).txout = s.txout ∧ (s.failBeforeSend c).rxq = s.rxq ∧
    (s.failBeforeSend c).srBufCap = s.srBufCap ∧ (s.failBeforeSend c).inputs = s.inputs ∧
    (s.failBeforeSend c).hostReads = s.hostReads ∧ (s.failBeforeSend c).draws = s.draws ∧
    (s.failBeforeSend c).drawCount = s.drawCount :=
  by simp only [State.failBeforeSend, State.observeNothing, State.fail, State.setResult, State.raise, and_self]

@[simp] theorem State.failExtract_fields (s : State) (c : Cause) :
    (s.failExtract c).cmd = s.cmd ∧ (s.failExtract c).ctrl = s.ctrl ∧ (s.failExtract c).err = c.code ∧
    (s.failExtract c).esub = c.sub ∧ (s.failExtract c).status = s.status ∧ (s.failExtract c).sv = false ∧
    (s.failExtract c).sra = s.sra ∧ (s.failExtract c).pv = false ∧ (s.failExtract c).rspAddr = s.rspAddr ∧
    (s.failExtract c).aAddr = s.aAddr ∧ (s.failExtract c).aInstr = s.aInstr ∧ (s.failExtract c).aReg = s.aReg ∧
    (s.failExtract c).aLen = s.aLen ∧ (s.failExtract c).aCnt = s.aCnt ∧ (s.failExtract c).aIdx = s.aIdx ∧
    (s.failExtract c).aSbit = s.aSbit ∧ (s.failExtract c).aWord = s.aWord ∧ (s.failExtract c).aVal = s.aVal ∧
    (s.failExtract c).result = 0 ∧ (s.failExtract c).txlen = s.txlen ∧ (s.failExtract c).rxlen = s.rxlen ∧
    (s.failExtract c).srN = s.srN ∧ (s.failExtract c).srL = s.srL ∧ (s.failExtract c).srSize = s.srSize ∧
    (s.failExtract c).srRawlen = s.srRawlen ∧ (s.failExtract c).srCur = s.srCur ∧ (s.failExtract c).hbuf = s.hbuf ∧
    (s.failExtract c).txbuf = s.txbuf ∧ (s.failExtract c).rxbuf = s.rxbuf ∧ (s.failExtract c).srbuf = s.srbuf ∧
    (s.failExtract c).pkt = Memory.unspecified ∧ (s.failExtract c).txout = s.txout ∧ (s.failExtract c).rxq = s.rxq ∧
    (s.failExtract c).srBufCap = s.srBufCap ∧ (s.failExtract c).inputs = s.inputs ∧
    (s.failExtract c).hostReads = s.hostReads ∧ (s.failExtract c).draws = s.draws ∧
    (s.failExtract c).drawCount = s.drawCount :=
  by simp only [State.failExtract, State.dropPacket, State.observeNothing, State.fail, State.setResult, State.raise, and_self]

@[simp] theorem State.exhaust_fields (s : State) :
    (s.exhaust).cmd = s.cmd ∧ (s.exhaust).ctrl = s.ctrl ∧ (s.exhaust).err = 0x07 ∧ (s.exhaust).esub = 0x00 ∧
    (s.exhaust).status = s.status ∧ (s.exhaust).sv = s.sv ∧ (s.exhaust).sra = s.sra ∧ (s.exhaust).pv = s.pv ∧
    (s.exhaust).rspAddr = s.rspAddr ∧ (s.exhaust).aAddr = s.aAddr ∧ (s.exhaust).aInstr = s.aInstr ∧
    (s.exhaust).aReg = s.aReg ∧ (s.exhaust).aLen = s.aLen ∧ (s.exhaust).aCnt = s.aCnt ∧ (s.exhaust).aIdx = s.aIdx ∧
    (s.exhaust).aSbit = s.aSbit ∧ (s.exhaust).aWord = s.aWord ∧ (s.exhaust).aVal = s.aVal ∧
    (s.exhaust).result = 0xFFFFFFFF ∧ (s.exhaust).txlen = s.txlen ∧ (s.exhaust).rxlen = s.rxlen ∧
    (s.exhaust).srN = s.srN ∧ (s.exhaust).srL = s.srL ∧ (s.exhaust).srSize = s.srSize ∧
    (s.exhaust).srRawlen = s.srRawlen ∧ (s.exhaust).srCur = s.srCur ∧ (s.exhaust).hbuf = s.hbuf ∧
    (s.exhaust).txbuf = s.txbuf ∧ (s.exhaust).rxbuf = s.rxbuf ∧ (s.exhaust).srbuf = s.srbuf ∧
    (s.exhaust).pkt = s.pkt ∧ (s.exhaust).txout = s.txout ∧ (s.exhaust).rxq = s.rxq ∧
    (s.exhaust).srBufCap = s.srBufCap ∧ (s.exhaust).inputs = s.inputs ∧ (s.exhaust).hostReads = s.hostReads ∧
    (s.exhaust).draws = s.draws ∧ (s.exhaust).drawCount = s.drawCount :=
  by simp only [State.exhaust, State.setResult, State.raise, Cause.code, Cause.sub, and_self]

@[simp] theorem State.endSilent_fields (s : State) :
    (s.endSilent).cmd = s.cmd ∧ (s.endSilent).ctrl = s.ctrl ∧ (s.endSilent).err = 0x00 ∧ (s.endSilent).esub = 0x00 ∧
    (s.endSilent).status = s.status ∧ (s.endSilent).sv = false ∧ (s.endSilent).sra = s.sra ∧ (s.endSilent).pv = s.pv ∧
    (s.endSilent).rspAddr = s.rspAddr ∧ (s.endSilent).aAddr = s.aAddr ∧ (s.endSilent).aInstr = s.aInstr ∧
    (s.endSilent).aReg = s.aReg ∧ (s.endSilent).aLen = s.aLen ∧ (s.endSilent).aCnt = s.aCnt ∧
    (s.endSilent).aIdx = s.aIdx ∧ (s.endSilent).aSbit = s.aSbit ∧ (s.endSilent).aWord = s.aWord ∧
    (s.endSilent).aVal = s.aVal ∧ (s.endSilent).result = 0 ∧ (s.endSilent).txlen = s.txlen ∧
    (s.endSilent).rxlen = s.rxlen ∧ (s.endSilent).srN = s.srN ∧ (s.endSilent).srL = s.srL ∧
    (s.endSilent).srSize = s.srSize ∧ (s.endSilent).srRawlen = s.srRawlen ∧ (s.endSilent).srCur = s.srCur ∧
    (s.endSilent).hbuf = s.hbuf ∧ (s.endSilent).txbuf = s.txbuf ∧ (s.endSilent).rxbuf = s.rxbuf ∧
    (s.endSilent).srbuf = s.srbuf ∧ (s.endSilent).pkt = s.pkt ∧ (s.endSilent).txout = s.txout ∧
    (s.endSilent).rxq = s.rxq ∧ (s.endSilent).srBufCap = s.srBufCap ∧ (s.endSilent).inputs = s.inputs ∧
    (s.endSilent).hostReads = s.hostReads ∧ (s.endSilent).draws = s.draws ∧ (s.endSilent).drawCount = s.drawCount :=
  by simp only [State.endSilent, State.observeNothing, State.setResult, State.succeed, and_self]

@[simp] theorem State.transmit_fields (s : State) (f : List Byte) :
    (s.transmit f).cmd = s.cmd ∧ (s.transmit f).ctrl = s.ctrl ∧ (s.transmit f).err = s.err ∧
    (s.transmit f).esub = s.esub ∧ (s.transmit f).status = s.status ∧ (s.transmit f).sv = s.sv ∧
    (s.transmit f).sra = s.sra ∧ (s.transmit f).pv = s.pv ∧ (s.transmit f).rspAddr = s.rspAddr ∧
    (s.transmit f).aAddr = s.aAddr ∧ (s.transmit f).aInstr = s.aInstr ∧ (s.transmit f).aReg = s.aReg ∧
    (s.transmit f).aLen = s.aLen ∧ (s.transmit f).aCnt = s.aCnt ∧ (s.transmit f).aIdx = s.aIdx ∧
    (s.transmit f).aSbit = s.aSbit ∧ (s.transmit f).aWord = s.aWord ∧ (s.transmit f).aVal = s.aVal ∧
    (s.transmit f).result = s.result ∧ (s.transmit f).txlen = BitVec.ofNat 8 f.length ∧
    (s.transmit f).rxlen = s.rxlen ∧ (s.transmit f).srN = s.srN ∧ (s.transmit f).srL = s.srL ∧
    (s.transmit f).srSize = s.srSize ∧ (s.transmit f).srRawlen = s.srRawlen ∧ (s.transmit f).srCur = s.srCur ∧
    (s.transmit f).hbuf = s.hbuf ∧ (s.transmit f).txbuf = s.txbuf.write 0 f ∧ (s.transmit f).rxbuf = s.rxbuf ∧
    (s.transmit f).srbuf = s.srbuf ∧ (s.transmit f).pkt = s.pkt ∧ (s.transmit f).txout = s.txout ++ f ∧
    (s.transmit f).rxq = [] ∧ (s.transmit f).srBufCap = s.srBufCap ∧ (s.transmit f).inputs = s.inputs ∧
    (s.transmit f).hostReads = s.hostReads ∧ (s.transmit f).draws = s.draws ∧
    (s.transmit f).drawCount = s.drawCount :=
  by simp only [State.transmit, State.placeFrame, State.rxFlush, State.txEmit, and_self]

end Sys2Proof.Machine
end

