-- ==== Sys2Proof/Laws/Codec.lean ====
section
/-! SUPPORT. The laws of the frame codec: the machine's checksum, frames, request and response checks against the rules
as Safety.lean writes them, and what the shared decode leaves. -/

namespace Sys2Proof.Machine

theorem checksum_eq_wireChecksum (bytes : List Byte) : checksum bytes = wireChecksum bytes := by
  apply BitVec.eq_of_toNat_eq
  simp only [checksum, wireChecksum, BitVec.toNat_not, BitVec.toNat_ofNat]
  omega

theorem buildFrame_eq_wireFrame (a i : Byte) (p : List Byte) : buildFrame a i p = wireFrame a i p := by
  simp [buildFrame, wireFrame, checksum_eq_wireChecksum]

@[simp] theorem length_wireFrame (a i : Byte) (p : List Byte) : (wireFrame a i p).length = p.length + 6 := by
  simp [wireFrame]

@[simp] theorem length_buildFrame (a i : Byte) (p : List Byte) : (buildFrame a i p).length = p.length + 6 := by
  simp [buildFrame_eq_wireFrame]

/-! ### Requests -/

/-- The request of an operation none of whose checks fails. -/
theorem request_ok {op : WireOp} {s : State} (h : requestFailure op s = none) :
    ∃ p, request op s = .ok (requestAddress op s, p) ∧ RequestParams op s p ∧ p.length ≤ 249 := by
  cases op
  case ping | btrigger => exact ⟨[], rfl, rfl, by simp⟩
  all_goals simp only [requestFailure, List.find?, Option.map_eq_none_iff] at h
  case read =>
    by_cases h1 : s.aAddr = 254#8 <;> by_cases h2 : s.aLen.toNat > 249 <;> simp [h1, h2] at h
    exact ⟨_, by simp [request, broadcast, h1, requestAddress]; omega, rfl, by simp⟩
  case write | bwrite =>
    by_cases h1 : s.aLen.toNat > 248 <;> simp [h1] at h
    exact ⟨s.aReg :: s.hostBytes s.aLen.toNat, by simp [request, requestAddress]; omega,
      ⟨_, Memory.reads_read _ _ _ _, rfl⟩, by simp [State.hostBytes]; omega⟩
  case syncread =>
    by_cases h1 : s.aCnt.toNat = 0 <;> by_cases h2 : s.aCnt.toNat > 247 <;> by_cases h3 : s.aLen.toNat > 249 <;>
      simp [h1, h2, h3] at h
    exact ⟨s.aReg :: s.aLen :: s.hostBytes s.aCnt.toNat,
      by simp only [request, requestAddress, broadcast]; simp [h1, h2, h3],
      ⟨_, Memory.reads_read _ _ _ _, rfl⟩, by simp [State.hostBytes]; omega⟩
  case syncwrite =>
    by_cases h1 : s.aCnt.toNat = 0 <;> by_cases h2 : s.aCnt.toNat * (s.aLen.toNat + 1) > 247 <;> simp [h1, h2] at h
    exact ⟨s.aReg :: s.aLen :: s.hostBytes (s.aCnt.toNat * (s.aLen.toNat + 1)),
      by simp only [request, requestAddress, broadcast]; simp [h1, h2],
      ⟨_, Memory.reads_read _ _ _ _, rfl⟩, by simp [State.hostBytes]; omega⟩

/-- The error of a request whose first failing check has an ESUB code. -/
theorem request_error {op : WireOp} {s : State} {sub : Byte} (h : requestFailure op s = some sub) :
    ∃ c, request op s = .error (.invalidParam c) ∧ c.code = sub := by
  cases op
  case ping | btrigger => simp [requestFailure] at h
  all_goals simp only [requestFailure, List.find?, Option.map_eq_some_iff] at h
  case read =>
    by_cases h1 : s.aAddr = 254#8 <;> by_cases h2 : s.aLen.toNat > 249 <;> simp [h1, h2] at h <;> subst h
    all_goals first
      | exact ⟨.broadcastRead, by simp [request, broadcast, h1], rfl⟩
      | exact ⟨.tooLong, by simp [request, broadcast, h1]; omega, rfl⟩
  case write | bwrite =>
    by_cases h1 : s.aLen.toNat > 248 <;> simp [h1] at h
    subst h
    exact ⟨.tooLong, by simp [request, h1], rfl⟩
  case syncread =>
    by_cases h1 : s.aCnt.toNat = 0 <;> by_cases h2 : s.aCnt.toNat > 247 <;> by_cases h3 : s.aLen.toNat > 249 <;>
      simp [h1, h2, h3] at h <;> subst h
    all_goals first
      | exact ⟨.badCount, by simp only [request]; simp [h1], rfl⟩
      | exact ⟨.tooLong, by simp only [request]; simp [h1, h2, h3], rfl⟩
  case syncwrite =>
    by_cases h1 : s.aCnt.toNat = 0 <;> by_cases h2 : s.aCnt.toNat * (s.aLen.toNat + 1) > 247 <;>
      simp [h1, h2] at h <;> subst h
    all_goals first
      | exact ⟨.badCount, by simp only [request]; simp [h1], rfl⟩
      | exact ⟨.tooLong, by simp only [request]; simp [h1, h2], rfl⟩

/-! ### Responses -/

theorem getElem?_eq_some_iff_getD {r : List Byte} {j : Nat} (h : j < r.length) (v : Byte) :
    r[j]? = some v ↔ r.getD j 0 = v := by
  simp [List.getD, List.getElem?_eq_getElem h]

/-- The machine's response check is the table of R132: success, or the codes of the first failing check. -/
theorem checkResponse_eq (r : List Byte) (a : Byte) (n : Nat) (i : Byte) :
    (responseFailure r a n i = none ∧ checkResponse r a n i =
        .ok { address := r.getD 2 0, status := r.getD 4 0, data := (r.drop 5).take n }) ∨
    ∃ c, responseFailure r a n i = some (c.code, c.sub) ∧ checkResponse r a n i = .error c ∧
      c.spoilsData = decide (c.code ≠ 0x04) := by
  by_cases h1 : n > 249
  · exact .inr ⟨.invalidParam .tooLong, by simp [responseFailure, responseChecks, h1, Cause.code, Cause.sub,
      ParamCause.code], if_pos h1, rfl⟩
  have n1 : decide (n > 249) = false := decide_eq_false h1
  by_cases h2 : r.length < n + 6
  · exact .inr ⟨.timeout, by simp [responseFailure, responseChecks, n1, h2, Cause.code, Cause.sub],
      (if_neg h1).trans (if_pos h2), rfl⟩
  have n2 : decide (r.length < n + 6) = false := decide_eq_false h2
  by_cases h3 : r.length > n + 6
  · exact .inr ⟨.framing .overrun, by simp [responseFailure, responseChecks, n1, n2, h3, Cause.code, Cause.sub,
      FramingCause.code], (if_neg h1).trans ((if_neg h2).trans (if_pos h3)), rfl⟩
  have n3 : decide (r.length > n + 6) = false := decide_eq_false h3
  have e0 := getElem?_eq_some_iff_getD (r := r) (j := 0) (by omega) 0xFF
  have e1 := getElem?_eq_some_iff_getD (r := r) (j := 1) (by omega) 0xFF
  have e2 := getElem?_eq_some_iff_getD (r := r) (j := 2) (by omega) a
  have e3 := getElem?_eq_some_iff_getD (r := r) (j := 3) (by omega) (BitVec.ofNat 8 (n + 2))
  have e4 := getElem?_eq_some_iff_getD (r := r) (j := n + 5) (by omega) (wireChecksum ((r.drop 2).take (n + 3)))
  have e3' : r.getD 3 0 = BitVec.ofNat 8 (n + 2) ↔ (r.getD 3 0).toNat = n + 2 := by
    rw [← BitVec.toNat_inj, BitVec.toNat_ofNat, Nat.mod_eq_of_lt (by omega)]
  simp only [responseFailure, responseChecks, List.find?_cons, n1, n2, n3]
  unfold checkResponse
  rw [if_neg h1, if_neg h2, if_neg h3, show (WireOp.ping.code : Byte) = 0x01 from rfl,
    show broadcast = (0xFE : Byte) from rfl]
  by_cases h4 : r.getD 0 0 ≠ 0xFF ∨ r.getD 1 0 ≠ 0xFF
  · refine .inr ⟨.framing .header, ?_, if_pos h4, rfl⟩
    simp only [Ne, e0, e1] at h4 ⊢
    simp only [h4, decide_true, Option.map_some]
    rfl
  rw [if_neg h4]
  simp only [Ne, ← e0, ← e1] at h4
  simp only [Ne, h4, decide_false]
  by_cases h5 : ¬ (i = 0x01 ∧ a = 0xFE) ∧ r.getD 2 0 ≠ a
  · refine .inr ⟨.framing .address, ?_, if_pos h5, rfl⟩
    simp only [Ne, ← e2] at h5
    simp only [h5, decide_true, Option.map_some, not_false_eq_true, and_self]
    rfl
  rw [if_neg (by simpa only [Ne] using h5)]
  simp only [Ne, ← e2] at h5
  simp only [h5, decide_false]
  by_cases h6 : (r.getD 3 0).toNat ≠ n + 2
  · refine .inr ⟨.framing .length, ?_, if_pos h6, rfl⟩
    simp only [Ne, ← e3', ← e3] at h6
    simp only [h6, decide_true, Option.map_some, not_false_eq_true]
    rfl
  rw [if_neg (by simpa only [Ne] using h6)]
  simp only [Ne, ← e3', ← e3] at h6
  simp only [h6, decide_false]
  by_cases h7 : r.getD (n + 5) 0 ≠ checksum ((r.drop 2).take (n + 3))
  · refine .inr ⟨.framing .checksum, ?_, if_pos h7, rfl⟩
    simp only [Ne, checksum_eq_wireChecksum, ← e4] at h7
    simp only [h7, decide_true, Option.map_some, not_false_eq_true]
    rfl
  · refine .inl ⟨?_, if_neg (by simpa only [Ne] using h7)⟩
    simp only [Ne, checksum_eq_wireChecksum, ← e4] at h7
    simp only [h7, decide_false, List.find?_nil, Option.map_none]

/-! ### A frame in the place of a response -/

theorem take_wireFrame (a c : Byte) (p : List Byte) : ((wireFrame a c p).drop 2).take (p.length + 3) =
    [a, BitVec.ofNat 8 (p.length + 2), c] ++ p := by
  simp [wireFrame]

theorem data_wireFrame (a c : Byte) (p : List Byte) : ((wireFrame a c p).drop 5).take p.length = p := by
  simp [wireFrame]

/-- A frame passes every check but, for another address, the address check. -/
theorem responseFailure_wireFrame {b st a i : Byte} {data : List Byte} (h : data.length ≤ 249) :
    responseFailure (wireFrame b st data) a data.length i =
      if ¬ (i = 0x01 ∧ a = 0xFE) ∧ b ≠ a then some (0x02, 0x02) else none := by
  have e : (wireFrame b st data)[data.length + 5]? =
      some (wireChecksum ([b, BitVec.ofNat 8 (data.length + 2), st] ++ data)) := by
    simp [wireFrame]
  simp only [responseFailure, responseChecks, take_wireFrame, e, length_wireFrame]
  rw [List.find?_cons_of_neg (by simpa using h), List.find?_cons_of_neg (by simp), List.find?_cons_of_neg (by simp),
    List.find?_cons_of_neg (by simp [wireFrame]), show (wireFrame b st data)[2]? = some b by simp [wireFrame]]
  by_cases hc : ¬ (i = 0x01 ∧ a = 0xFE) ∧ b ≠ a
  · rw [if_pos hc, List.find?_cons_of_pos (by exact decide_eq_true ⟨hc.1, by simpa using hc.2⟩)]
    rfl
  · rw [if_neg hc, List.find?_cons_of_neg (by rw [decide_eq_true_eq]; exact fun h => hc ⟨h.1, by simpa using h.2⟩),
      List.find?_cons_of_neg (by simp [wireFrame]), List.find?_cons_of_neg (by simp)]
    rfl

/-- Two byte lists have one checksum exactly when their sums agree modulo 256. -/
theorem checksum_eq_iff (x y : List Byte) :
    checksum x = checksum y ↔ (x.map BitVec.toNat).sum % 256 = (y.map BitVec.toNat).sum % 256 := by
  simp only [checksum_eq_wireChecksum, wireChecksum, ← BitVec.toNat_inj, BitVec.toNat_ofNat]
  omega

/-- The sum of a list after one byte is replaced. -/
theorem sum_set {l : List Byte} {j : Nat} (h : j < l.length) (v : Byte) :
    ((l.set j v).map BitVec.toNat).sum + l[j].toNat = (l.map BitVec.toNat).sum + v.toNat := by
  induction l generalizing j with
  | nil => simp at h
  | cons b l ih =>
    cases j with
    | zero => simp; omega
    | succ j =>
      have := ih (j := j) (by simpa using h)
      simp at this ⊢
      omega

/-- The response check of bytes with the right header and the right count. -/
theorem checkResponse_of_header {n : Nat} (hn : n ≤ 249) (x l : Byte) {t : List Byte} (ht : t.length = n + 2)
    (a i : Byte) :
    checkResponse (0xFF :: 0xFF :: x :: l :: t) a n i =
      if ¬ (i = 0x01 ∧ a = 0xFE) ∧ x ≠ a then .error (.framing .address)
      else if l.toNat ≠ n + 2 then .error (.framing .length)
      else if t.getD (n + 1) 0 ≠ checksum (x :: l :: t.take (n + 1)) then .error (.framing .checksum)
      else .ok { address := x, status := t.getD 0 0, data := (t.drop 1).take n } := by
  have hl : (0xFF :: 0xFF :: x :: l :: t).length = n + 6 := by simp [ht]
  unfold checkResponse
  rw [if_neg (by omega), if_neg (by omega), if_neg (by omega), if_neg (by simp)]
  rfl

/-- The two outcomes of a decode. -/
theorem decodeEffect_cases (r : List Byte) (a : Byte) (n : Nat) (i : Byte) (s : State) :
    (responseFailure r a n i = none ∧ decodeEffect r a n i s =
      { s with
        status := r.getD 4 0, sv := true, rspAddr := r.getD 2 0, hbuf := s.hbuf.write 0 ((r.drop 5).take n),
        result := BitVec.ofNat 32 n, err := 0x00, esub := 0x00 }) ∨
    (∃ c : Cause, responseFailure r a n i = some (c.code, c.sub) ∧ decodeEffect r a n i s =
      { s with
      sv := false, result := 0, err := c.code, esub := c.sub,
      hbuf := if c.code = 0x04 then s.hbuf else s.hbuf.forget n }) := by
  obtain ⟨h, _⟩ | ⟨c, h, _⟩ := checkResponse_eq r a n i
  · exact .inl ⟨h, by rw [decodeEffect, h]⟩
  · exact .inr ⟨c, h, by rw [decodeEffect, h]⟩

@[simp] theorem Cause.code_ne (c : Cause) : c.code ≠ 0 := by cases c <;> simp [Cause.code]

/-- A response that passes every check has the exact count. -/
theorem length_of_responseFailure {r : List Byte} {a : Byte} {n : Nat} {i : Byte} (h : responseFailure r a n i = none) :
    n ≤ 249 ∧ r.length = n + 6 := by
  simp [responseFailure, responseChecks] at h
  omega

/-- What the shared decode leaves: the effects R132 lists for the first failing check, or for success. -/
theorem decodeReceived_eq (s : State) (a : Byte) (n : Nat) (i : Byte) :
    s.decodeReceived a n i =
      { decodeEffect (s.rxbuf.read s.drawCount 0 s.rxlen.toNat) a n i s with
        drawCount := s.drawCount + s.rxlen.toNat } := by
  simp only [State.decodeReceived]
  obtain ⟨hf, hr⟩ | ⟨c, hf, hr, hd⟩ := checkResponse_eq (s.rxbuf.read s.drawCount 0 s.rxlen.toNat) a n i
  · rw [hr, decodeEffect, hf]
    rfl
  · rw [hr, decodeEffect, hf]
    simp only [State.failDecode, State.fail, State.setResult, State.raise, State.spend, hd]
    by_cases h4 : c.code = 0x04 <;> simp [h4]

/-- Where the received bytes are known, the decode is about them. -/
theorem decodeReceived_of_holds {s : State} {r : List Byte} (h : s.rxbuf.Holds r) (hl : s.rxlen.toNat = r.length)
    (a : Byte) (n : Nat) (i : Byte) :
    s.decodeReceived a n i = { decodeEffect r a n i s with drawCount := s.drawCount + r.length } := by
  rw [decodeReceived_eq, hl, h.read_eq]

end Sys2Proof.Machine
end

