-- ==== Sys2Proof/Laws/Encoding.lean ====
section
/-! SUPPORT. The laws of the encodings: register numbers and SPACE codes are one to one, the fields of a packed host word
come back, and what an accepted set of fields says. -/

namespace Sys2Proof

theorem Reg.ofNumber?_number (r : Reg) : Reg.ofNumber? r.number = some r := by cases r <;> rfl

theorem Reg.number_lt (r : Reg) : r.number < 24 := by cases r <;> decide

theorem Reg.number_of_ofNumber? {n : Nat} {r : Reg} (h : Reg.ofNumber? n = some r) : r.number = n := by
  have : n < 24 := by simpa [Reg.all] using (List.getElem?_eq_some_iff.1 h).1
  interval_cases n <;> (simp [Reg.ofNumber?, Reg.all] at h; subst h; rfl)

theorem Space.ofCode?_code (s : Space) : Space.ofCode? s.code = some s := by
  cases s with
  | reg => rfl
  | buf b => cases b <;> rfl

theorem Space.code_of_ofCode? {n : Nat} {s : Space} (h : Space.ofCode? n = some s) : s.code = n := by
  unfold Space.ofCode? at h
  split at h <;> simp at h <;> subst h <;> rfl

/-- The decoder sees the fields that were packed. -/
theorem decodeWord_packHostWord (cap k sp ix v : Nat) (hk : k < 4) (hs : sp < 8) (hi : ix < 2 ^ 16) (hv : v < 2 ^ 32) :
    decodeWord cap (packHostWord k sp ix v) = decodeFields cap k sp 0 ix v := by
  unfold decodeWord packHostWord
  rw [BitVec.toNat_ofNat, Nat.mod_eq_of_lt (by omega)]
  congr 1 <;> omega

/-- A word whose reserved bits are 0 is the packing of its fields. -/
theorem packHostWord_fields (w : HostWord) (h : w.toNat / 2 ^ 48 % 2 ^ 11 = 0) :
    packHostWord (w.toNat / 2 ^ 62) (w.toNat / 2 ^ 59 % 8) (w.toNat / 2 ^ 32 % 2 ^ 16) (w.toNat % 2 ^ 32) = w := by
  apply BitVec.eq_of_toNat_eq
  have := w.isLt
  simp only [packHostWord, BitVec.toNat_ofNat]
  omega

/-- The word of a command code, as R95 writes it, is a write of that code to CMD. -/
theorem decodeWord_command (cap : Nat) (c : Byte) :
    decodeWord cap (BitVec.ofNat 64 c.toNat) = .ok (.regWrite .cmd (c.setWidth 32)) := by
  have := c.isLt
  unfold decodeWord
  rw [BitVec.toNat_ofNat, Nat.mod_eq_of_lt (by omega), show c.toNat / 2 ^ 62 = 0 by omega,
    show c.toNat / 2 ^ 59 = 0 by omega, show c.toNat / 2 ^ 48 = 0 by omega, show c.toNat / 2 ^ 32 = 0 by omega,
    Nat.mod_eq_of_lt (by omega : c.toNat < 2 ^ 32)]
  simp [decodeFields, Space.ofCode?, decodeRegWrite, Reg.ofNumber?, Reg.all, Reg.writable, Reg.width,
    Reg.reservedMask]
  exact c.isLt

end Sys2Proof
end

