-- ==== Sys2Proof/Laws/Endian.lean ====
section
/-! SUPPORT. The laws of the adapter's arithmetic: the halves of a word, and a sign bit set or cleared. -/

namespace Sys2Proof.Machine

theorem low_high_eq_extract (w : Half) :
    BitVec.ofNat 8 (w.toNat % 256) = w.extractLsb' 0 8 ∧ BitVec.ofNat 8 (w.toNat / 256) = w.extractLsb' 8 8 := by
  constructor <;> apply BitVec.eq_of_toNat_eq <;> simp [BitVec.extractLsb'_toNat, Nat.shiftRight_eq_div_pow]

theorem State.signBit_eq_extract (s : State) : s.signBit = (s.aSbit.extractLsb' 0 4).toNat := by
  simp [State.signBit, BitVec.extractLsb'_toNat]

theorem State.signBit_lt (s : State) : s.signBit < 16 := by
  unfold State.signBit
  omega

theorem toNat_bit {n : Nat} (hn : n < 16) : (1#16 <<< n).toNat = 2 ^ n := by
  rw [BitVec.toNat_shiftLeft, Nat.shiftLeft_eq]
  simp
  exact Nat.pow_lt_pow_right (by omega) hn

/-- A word whose bit `n` is set is that bit and the word with it cleared. -/
theorem toNat_eq_bit_add_clear {w : Half} {n : Nat} (hn : n < 16) (h : w.getLsbD n = true) :
    w.toNat = 2 ^ n + (w &&& ~~~ (1#16 <<< n)).toNat := by
  have hz : (1#16 <<< n) &&& (w &&& ~~~ (1#16 <<< n)) = 0 := by
    ext i hi
    by_cases hi' : i = n <;> simp [hi']
    omega
  have hw : w = (1#16 <<< n) ||| (w &&& ~~~ (1#16 <<< n)) := by
    ext i hi
    simp only [BitVec.getElem_or, BitVec.getElem_and, BitVec.getElem_not]
    by_cases hi' : i = n
    · subst hi'
      simp [← BitVec.getLsbD_eq_getElem, h]
    · have : (1#16 <<< n)[i] = false := by
        simp
        omega
      simp [this]
  rw [← toNat_bit hn, ← BitVec.toNat_add_of_and_eq_zero hz, BitVec.add_eq_or_of_and_eq_zero _ _ hz, ← hw]

theorem clear_of_not_set {w : Half} {n : Nat} (h : w.getLsbD n = false) : (w &&& ~~~ (1#16 <<< n)) = w := by
  ext i hi
  simp only [BitVec.getElem_and, BitVec.getElem_not]
  by_cases hi' : i = n
  · subst hi'
    simp [← BitVec.getLsbD_eq_getElem, h]
  · have : (1#16 <<< n)[i] = false := by
      simp
      omega
    simp [this]

/-- Adding a bit that is clear in a 16-bit magnitude is setting it, and stays in 16 bits. -/
theorem add_bit_eq_or {m n : Nat} (hm : m ≤ 0xFFFF) (hn : n < 16) (hb : m.testBit n = false) :
    m + 2 ^ n = m ||| 1 <<< n ∧ m ||| 1 <<< n < 2 ^ 16 := by
  have hlt : m ||| 1 <<< n < 2 ^ 16 := Nat.or_lt_two_pow (by omega) (by
    rw [Nat.one_shiftLeft]
    exact Nat.pow_lt_pow_right (by omega) hn)
  refine ⟨?_, hlt⟩
  have hz : (BitVec.ofNat 16 m) &&& (1#16 <<< n) = 0 := by
    ext i hi
    by_cases hi' : i = n
    · subst hi'
      simp [← BitVec.getLsbD_eq_getElem, BitVec.getLsbD_ofNat, hb]
    · have : (1#16 <<< n)[i] = false := by
        simp
        omega
      simp [this]
  have h1 := BitVec.toNat_add_of_and_eq_zero hz
  rw [BitVec.add_eq_or_of_and_eq_zero _ _ hz, BitVec.toNat_or, toNat_bit hn,
    show (BitVec.ofNat 16 m).toNat = m by simp; omega] at h1
  rw [← h1, Nat.one_shiftLeft]

/-- Sign-magnitude decoding in the words of R233: the magnitude is the word with bit `S` cleared. -/
theorem smDecode_eq (w : Half) {n : Nat} (hn : n < 16) (se : Bool) :
    smDecode w n se =
      if se = false then (w.toNat : Int)
      else if w.getLsbD n then -((w &&& ~~~ (1#16 <<< n)).toNat : Int)
      else ((w &&& ~~~ (1#16 <<< n)).toNat : Int) := by
  unfold smDecode
  by_cases h1 : se = false
  · rw [if_pos h1, if_pos h1]
  rw [if_neg h1, if_neg h1]
  by_cases h2 : w.getLsbD n = true
  · rw [if_pos h2, if_pos h2, toNat_eq_bit_add_clear hn h2, Nat.add_sub_cancel_left]
  · rw [if_neg h2, if_neg h2, clear_of_not_set (by simpa using h2)]

end Sys2Proof.Machine
end

