-- ==== Sys2Proof/Laws/Invariant.lean ====
section
/-! SUPPORT. The invariant taken apart: what it says of each buffer, and that an update which leaves the session and
keeps the other buffers canonical keeps it. -/

namespace Sys2Proof.Machine

/-- The first `n` bytes of a buffer are specified. -/
def Memory.SpecifiedTo (m : Memory) (n : Nat) : Prop := ∀ i, i < n → ∃ v, m.load i = some v

theorem Memory.specifiedTo_write (m : Memory) (f : List Byte) {n : Nat} (h : n ≤ f.length) :
    (m.write 0 f).SpecifiedTo n :=
  fun i hi => ⟨f[i]'(by omega), by rw [Memory.load_write_zero, if_pos (by omega), List.getElem?_eq_getElem]⟩

theorem State.validPartSpecified_iff (s : State) :
    s.ValidPartSpecified ↔
      s.txbuf.SpecifiedTo s.txlen.toNat ∧ s.rxbuf.SpecifiedTo s.rxlen.toNat ∧
        s.srbuf.SpecifiedTo s.srRawlen.toNat ∧ (s.pv = true → s.pkt.SpecifiedTo s.srL.toNat) := by
  constructor
  · intro h
    exact ⟨fun i hi => h .txbuf i (by decide) (by simpa [State.inValidPart] using hi),
      fun i hi => h .rxbuf i (by decide) (by simpa [State.inValidPart] using hi),
      fun i hi => h .srbuf i (by decide) (by simpa [State.inValidPart] using hi),
      fun hp i hi => h .pkt i (by decide) (by simp [State.inValidPart, hp, hi])⟩
  · rintro ⟨h1, h2, h3, h4⟩ b i hb hi
    cases b <;> simp [State.inValidPart] at hi hb
    · exact h1 i hi
    · exact h2 i hi
    · exact h3 i hi
    · exact h4 hi.1 i hi.2

theorem State.inv_iff (s : State) :
    s.Inv ↔
      s.BuffersCanonical ∧ s.SessionInvariant ∧ s.ReservedClear ∧ s.ErrorLegal ∧
        s.txbuf.SpecifiedTo s.txlen.toNat ∧ s.rxbuf.SpecifiedTo s.rxlen.toNat ∧
        s.srbuf.SpecifiedTo s.srRawlen.toNat ∧ (s.pv = true → s.pkt.SpecifiedTo s.srL.toNat) := by
  rw [← State.validPartSpecified_iff]
  exact ⟨fun ⟨a, b, c, d, e⟩ => ⟨a, b, c, d, e⟩, fun ⟨a, b, c, d, e⟩ => ⟨a, b, c, d, e⟩⟩

theorem State.errorLegal_of_cause {s : State} (c : Cause) (h : s.err = c.code) (h' : s.esub = c.sub) :
    s.ErrorLegal :=
  .inr ⟨c, h, h'⟩

theorem State.errorLegal_of_ok {s : State} (h : s.err = 0) (h' : s.esub = 0) : s.ErrorLegal := .inl ⟨h, h'⟩

/-- The session, its buffers, the capacity and the registers with reserved bits are as before. -/
def SessionKept (s t : State) : Prop :=
  t.srbuf = s.srbuf ∧ t.pkt = s.pkt ∧ t.srBufCap = s.srBufCap ∧ t.sra = s.sra ∧ t.pv = s.pv ∧ t.srN = s.srN ∧
  t.srL = s.srL ∧ t.srSize = s.srSize ∧ t.srRawlen = s.srRawlen ∧ t.srCur = s.srCur ∧ t.ctrl = s.ctrl ∧
  t.aSbit = s.aSbit

/-- An update outside the session keeps the invariant when it keeps it of the three other buffers. -/
theorem State.Inv.of_sessionKept {s t : State} (h : s.Inv) (hk : SessionKept s t) (he : t.ErrorLegal)
    (hh : t.hbuf.wf 256) (htx : t.txbuf.wf 255) (hrx : t.rxbuf.wf 255) (vtx : t.txbuf.SpecifiedTo t.txlen.toNat)
    (vrx : t.rxbuf.SpecifiedTo t.rxlen.toNat) : t.Inv := by
  rw [State.inv_iff] at h ⊢
  obtain ⟨⟨-, -, -, c4, c5⟩, hs, hr, -, -, -, v3, v4⟩ := h
  obtain ⟨k1, k2, k3, k4, k5, k6, k7, k8, k9, k10, k11, k12⟩ := hk
  refine ⟨⟨hh, htx, hrx, by rw [k1, k3]; exact c4, by rw [k2]; exact c5⟩, ?_, ?_, he, vtx, vrx,
    by rw [k1, k9]; exact v3, by rw [k5, k2, k7]; exact v4⟩
  · unfold State.SessionInvariant at hs ⊢
    rw [k3, k4, k5, k6, k7, k8, k9, k10]
    exact hs
  · unfold State.ReservedClear at hr ⊢
    rw [k11, k12]
    exact hr

/-- An update that stores in no buffer and leaves the session keeps the invariant. -/
theorem State.Inv.of_buffersKept {s t : State} (h : s.Inv) (hk : SessionKept s t) (he : t.ErrorLegal)
    (hb : t.hbuf = s.hbuf ∧ t.txbuf = s.txbuf ∧ t.rxbuf = s.rxbuf ∧ t.txlen = s.txlen ∧ t.rxlen = s.rxlen) :
    t.Inv := by
  obtain ⟨k1, k2, k3, k4, k5⟩ := hb
  obtain ⟨⟨c1, c2, c3, -, -⟩, -, -, -, v1, v2, -, -⟩ := (State.inv_iff s).1 h
  exact h.of_sessionKept hk he (by rw [k1]; exact c1) (by rw [k2]; exact c2) (by rw [k3]; exact c3)
    (by rw [k2, k4]; exact v1) (by rw [k3, k5]; exact v2)

end Sys2Proof.Machine
end

