-- ==== Sys2Proof/Laws/PerInstr.lean ====
section
/-! SUPPORT. Statements for all instructions, a lemma per constructor. Family TableRoundTrip: the row that `encode` gives
an instruction decodes to it. -/

namespace Sys2Proof.Laws.TableRoundTrip

def Statement (i : Instr) : Prop := decodeTableWord (encode i).1 (encode i).2 = some i

theorem ping : Statement .ping := by unfold Statement; decide
theorem read : Statement .read := by unfold Statement; decide
theorem write : Statement .write := by unfold Statement; decide
theorem bwrite : Statement .bwrite := by unfold Statement; decide
theorem btrigger : Statement .btrigger := by unfold Statement; decide
theorem syncread : Statement .syncread := by unfold Statement; decide
theorem syncwrite : Statement .syncwrite := by unfold Statement; decide
theorem nop : Statement .nop := by unfold Statement; decide
theorem cksum : Statement .cksum := by unfold Statement; decide
theorem encode : Statement .encode := by unfold Statement; decide
theorem decode : Statement .decode := by unfold Statement; decide
theorem send : Statement .send := by unfold Statement; decide
theorem flushRx : Statement .flushRx := by unfold Statement; decide
theorem recv : Statement .recv := by unfold Statement; decide
theorem xact : Statement .xact := by unfold Statement; decide
theorem srBegin : Statement .srBegin := by unfold Statement; decide
theorem srXfer : Statement .srXfer := by unfold Statement; decide
theorem srExtract : Statement .srExtract := by unfold Statement; decide
theorem srNextByte : Statement .srNextByte := by unfold Statement; decide
theorem srNextWord : Statement .srNextWord := by unfold Statement; decide
theorem srEnd : Statement .srEnd := by unfold Statement; decide
theorem h2b : Statement .h2b := by unfold Statement; decide
theorem b2h : Statement .b2h := by unfold Statement; decide
theorem smDec : Statement .smDec := by unfold Statement; decide
theorem smEnc : Statement .smEnc := by unfold Statement; decide

end Sys2Proof.Laws.TableRoundTrip
end

