-- ==== Sys2Proof/Laws/Scan.lean ====
section
/-! SUPPORT. The laws of the scanner: what a candidate is, what `findHeader` gives, and that the fuel of the loop never
runs out, so that the scan is the loop of R194. -/

namespace Sys2Proof.Machine

theorem isCandidate_iff (buf : List Byte) (h : Nat) :
    isCandidate buf h = true ↔
      buf[h]? = some 0xFF ∧ buf[h + 1]? = some 0xFF ∧ ∃ x, buf[h + 2]? = some x ∧ x ≠ 0xFF := by
  by_cases hl : h + 2 < buf.length
  · simp [isCandidate, hl, List.getD, List.getElem?_eq_getElem (show h < buf.length by omega),
      List.getElem?_eq_getElem (show h + 1 < buf.length by omega), and_assoc]
  · simp [isCandidate, hl]

theorem isCandidate_lt {buf : List Byte} {h : Nat} (hc : isCandidate buf h = true) : h + 2 < buf.length := by
  simp only [isCandidate, Bool.and_eq_true, decide_eq_true_eq] at hc
  exact hc.1.1.1

/-- The smallest candidate from a position on. -/
theorem findHeader_eq_some {buf : List Byte} {s h : Nat} :
    findHeader buf s = some h ↔
      s ≤ h ∧ isCandidate buf h = true ∧ ∀ g, s ≤ g → g < h → isCandidate buf g = false := by
  rw [findHeader, List.find?_range'_eq_some]
  constructor
  · rintro ⟨h1, h2, h3⟩
    rw [List.mem_range'_1] at h2
    exact ⟨h2.1, h1, fun g hg hh => by simpa using h3 g hg hh⟩
  · rintro ⟨h1, h2, h3⟩
    have := isCandidate_lt h2
    exact ⟨h2, List.mem_range'_1.2 (by omega), fun g hg hh => by simpa using h3 g hg hh⟩

theorem findHeader_eq_none {buf : List Byte} {s : Nat} :
    findHeader buf s = none ↔ ∀ g, s ≤ g → isCandidate buf g = false := by
  rw [findHeader, List.find?_eq_none]
  constructor
  · intro h g hg
    by_contra hc
    rw [Bool.not_eq_false] at hc
    have := isCandidate_lt hc
    exact h g (List.mem_range'_1.2 (by omega)) hc
  · intro h g hg
    rw [List.mem_range'_1] at hg
    simp [h g hg.1]

/-- Moving on past positions that are no candidates finds the same header. -/
theorem findHeader_congr {buf : List Byte} {s s' : Nat} (hs : s ≤ s')
    (h : ∀ g, s ≤ g → g < s' → isCandidate buf g = false) : findHeader buf s = findHeader buf s' := by
  cases h' : findHeader buf s' with
  | none =>
    rw [findHeader_eq_none] at h' ⊢
    exact fun g hg => if hc : g < s' then h g hg hc else h' g (by omega)
  | some k =>
    rw [findHeader_eq_some] at h' ⊢
    exact ⟨by omega, h'.2.1, fun g hg hk => if hc : g < s' then h g hg hc else h'.2.2 g (by omega) hk⟩

/-- A fuel above the number of bytes left never runs out. -/
theorem scanFrom_fuel (t : Byte) (l : Nat) (buf : List Byte) (f₁ f₂ s : Nat) (h₁ : buf.length - s < f₁)
    (h₂ : buf.length - s < f₂) : scanFrom t l buf f₁ s = scanFrom t l buf f₂ s := by
  induction f₁ generalizing f₂ s with
  | zero => omega
  | succ f₁ ih =>
    obtain _ | f₂ := f₂
    · omega
    simp only [scanFrom]
    cases hh : findHeader buf s with
    | none => rfl
    | some h =>
      obtain ⟨hs, hc, _⟩ := findHeader_eq_some.1 hh
      have := isCandidate_lt hc
      simp only
      rw [ih f₂ (h + 1) (by omega) (by omega), ih f₂ (h + 4) (by omega) (by omega)]

/-- What the loop of R194 gives from a position. -/
def scanAt (t : Byte) (l : Nat) (buf : List Byte) (s : Nat) : ScanResult := scanFrom t l buf (buf.length + 1) s

theorem scan_eq_scanAt (t : Byte) (l : Nat) (buf : List Byte) : scan t l buf = scanAt t l buf 0 := rfl

/-- One turn of the loop of R194, from any position. -/
theorem scanAt_eq (t : Byte) (l : Nat) (buf : List Byte) (s : Nat) :
    scanAt t l buf s =
      match findHeader buf s with
      | none => .notFound
      | some h =>
        if buf.getD (h + 2) 0 ≠ t then scanAt t l buf (h + 1)
        else if buf.length ≤ h + 3 then .truncated
        else if (buf.getD (h + 3) 0).toNat ≠ l + 2 then scanAt t l buf (h + 4)
        else if buf.length ≤ h + 5 + l then .truncated
        else if buf.getD (h + 5 + l) 0 ≠
            checksum (t :: BitVec.ofNat 8 (l + 2) :: buf.getD (h + 4) 0 :: (buf.drop (h + 5)).take l) then .checksum
        else .found h (buf.getD (h + 4) 0) ((buf.drop (h + 5)).take l) := by
  conv => lhs; rw [scanAt, scanFrom]
  cases hh : findHeader buf s with
  | none => rfl
  | some h =>
    obtain ⟨hs, hc, _⟩ := findHeader_eq_some.1 hh
    have := isCandidate_lt hc
    simp only [scanAt]
    rw [scanFrom_fuel t l buf buf.length (buf.length + 1) (h + 1) (by omega) (by omega),
      scanFrom_fuel t l buf buf.length (buf.length + 1) (h + 4) (by omega) (by omega)]

/-- The data of an extracted frame is whole. -/
theorem length_of_scanAt_found {t : Byte} {l : Nat} {buf : List Byte} {s h : Nat} {st : Byte} {data : List Byte}
    (hf : scanAt t l buf s = .found h st data) : data.length = l := by
  have key : ∀ f s, scanFrom t l buf f s = .found h st data → data.length = l := by
    intro f
    induction f with
    | zero => intro s hs; simp [scanFrom] at hs
    | succ f ih =>
      intro s hs
      simp only [scanFrom] at hs
      split at hs
      · cases hs
      split at hs
      · exact ih _ hs
      split at hs
      · cases hs
      split at hs
      · exact ih _ hs
      split at hs
      · cases hs
      split at hs
      · cases hs
      · cases hs
        simp only [List.length_take, List.length_drop]
        omega
  exact key _ _ hf

/-- Passing over a candidate of another node. -/
theorem scanAt_skip {t : Byte} {l : Nat} {buf : List Byte} {s s' : Nat} (hs : s ≤ s')
    (h : ∀ g, s ≤ g → g < s' → isCandidate buf g = true → buf[g + 2]? ≠ some t) :
    scanAt t l buf s = scanAt t l buf s' := by
  obtain ⟨d, rfl⟩ : ∃ d, s' = s + d := ⟨s' - s, by omega⟩
  induction d generalizing s with
  | zero => rfl
  | succ d ih =>
    have e := ih (s := s + 1) (by omega) (fun g hg hd => h g (by omega) (by omega))
    rw [show s + 1 + d = s + (d + 1) by omega] at e
    rw [← e]
    by_cases hc : isCandidate buf s = true
    · have hn := h s (by omega) (by omega) hc
      have hl := isCandidate_lt hc
      rw [scanAt_eq, findHeader_eq_some.2 ⟨le_refl s, hc, fun g h1 h2 => absurd h1 (by omega)⟩]
      simp only
      rw [if_pos]
      simpa [List.getD, List.getElem?_eq_getElem hl] using hn
    · have e' := findHeader_congr (buf := buf) (s := s) (s' := s + 1) (by omega)
        (fun g h1 h2 => by rw [show g = s by omega]; simpa using hc)
      rw [scanAt_eq, scanAt_eq t l buf (s + 1), e']

/-- A candidate past a prefix is one of the rest. -/
theorem isCandidate_append (A R : List Byte) (g : Nat) : isCandidate (A ++ R) (A.length + g) = isCandidate R g := by
  have key : ∀ k, (A ++ R)[A.length + k]? = R[k]? := fun k => by
    rw [List.getElem?_append_right (by omega)]
    simp
  rw [Bool.eq_iff_iff, isCandidate_iff, isCandidate_iff]
  simp only [Nat.add_assoc, key]

/-- The loop, arrived at a valid frame of the node, finds it. -/
theorem scanAt_frame {t st : Byte} {data : List Byte} (P Q : List Byte) (ht : t ≠ 0xFF) (hd : data.length ≤ 249) :
    scanAt t data.length (P ++ wireFrame t st data ++ Q) P.length = .found P.length st data := by
  have hlen : (P ++ wireFrame t st data ++ Q).length = P.length + data.length + 6 + Q.length := by simp; omega
  have get : ∀ j, j < data.length + 6 → (P ++ wireFrame t st data ++ Q)[P.length + j]? = (wireFrame t st data)[j]? := by
    intro j hj
    rw [List.append_assoc, List.getElem?_append_right (by omega), List.getElem?_append_left (by simp; omega)]; simp
  have w0 : (wireFrame t st data)[0]? = some 0xFF := by simp [wireFrame]
  have w1 : (wireFrame t st data)[1]? = some 0xFF := by simp [wireFrame]
  have w2 : (wireFrame t st data)[2]? = some t := by simp [wireFrame]
  have w3 : (wireFrame t st data)[3]? = some (BitVec.ofNat 8 (data.length + 2)) := by simp [wireFrame]
  have w4 : (wireFrame t st data)[4]? = some st := by simp [wireFrame]
  have w5 : (wireFrame t st data)[data.length + 5]? =
      some (wireChecksum ([t, BitVec.ofNat 8 (data.length + 2), st] ++ data)) := by simp [wireFrame]
  have wd : (((P ++ wireFrame t st data ++ Q)).drop (P.length + 5)).take data.length = data := by
    rw [List.append_assoc, ← List.drop_drop]; simp [wireFrame]
  have g0 := (get 0 (by omega)).trans w0
  have g1 := (get 1 (by omega)).trans w1
  have g2 := (get 2 (by omega)).trans w2
  have g3 := (get 3 (by omega)).trans w3
  have g4 := (get 4 (by omega)).trans w4
  have g5 := (get (data.length + 5) (by omega)).trans w5
  rw [show P.length + (data.length + 5) = P.length + 5 + data.length by omega] at g5
  have hc : isCandidate (P ++ wireFrame t st data ++ Q) P.length = true := (isCandidate_iff _ _).2 ⟨g0, g1, t, g2, ht⟩
  rw [scanAt_eq, findHeader_eq_some.2 ⟨le_refl _, hc, fun g h1 h2 => absurd h1 (by omega)⟩]
  simp only [wd, List.getD, g2, g3, g4, g5, Option.getD_some]
  rw [if_neg (by simp), if_neg (by omega), if_neg (by simp; omega), if_neg (by omega), if_neg]
  rw [checksum_eq_wireChecksum]; simp

end Sys2Proof.Machine
end

