-- ==== Sys2Proof/Laws/Step.lean ====
section
/-! SUPPORT. The laws of the step: which of its outcomes each input gives, and that no instruction stops. -/

namespace Sys2Proof.Machine

/-- Every instruction has a next state: the block has no fault, and R103 alone refuses. -/
theorem exec_next (i : Instr) (s : State) : ∃ t, exec i s = .next t := by
  cases i <;> simp only [exec] <;> first
    | exact ⟨_, rfl⟩
    | (unfold execEncode; split <;> exact ⟨_, rfl⟩)
    | (unfold execXact; split <;> exact ⟨_, rfl⟩)
    | (unfold execSmEnc; split <;> exact ⟨_, rfl⟩)
    | (unfold execSrNextByte; dsimp only; split <;> exact ⟨_, rfl⟩)
    | (unfold execSrNextWord; dsimp only; split <;> exact ⟨_, rfl⟩)
    | (unfold execH2b; dsimp only; split <;> exact ⟨_, rfl⟩)
    | (unfold execB2h; dsimp only; split <;> exact ⟨_, rfl⟩)
    | (unfold execSrBegin; dsimp only; split_ifs <;> exact ⟨_, rfl⟩)
    | (unfold execSrExtract; dsimp only; split
       · exact ⟨_, rfl⟩
       · split <;> exact ⟨_, rfl⟩)

theorem runTxn_next (t : HostTxn) (s : State) : ∃ u, runTxn t s = .next u := by
  cases t <;> simp only [runTxn]
  · split
    · unfold runCommand
      split
      · exact exec_next _ _
      · exact ⟨_, rfl⟩
    · exact ⟨_, rfl⟩
  all_goals exact ⟨_, rfl⟩

theorem step_transaction {s : State} {w : HostWord} {rest : List Input} (h : s.inputs = .transaction w :: rest) :
    step s = runHostWord w { s with inputs := rest } := by
  simp only [step, runInput, h]

theorem step_accepted {s : State} {w : HostWord} {rest : List Input} {t : HostTxn}
    (h : s.inputs = .transaction w :: rest) (hd : decodeWord s.srBufCap.toNat w = .ok t) :
    step s = runTxn t { s with inputs := rest } := by
  simp only [step_transaction h, runHostWord, hd]

theorem step_refused {s : State} {w : HostWord} {rest : List Input} {why : Malformed}
    (h : s.inputs = .transaction w :: rest) (hd : decodeWord s.srBufCap.toNat w = .error why) :
    step s = .refused (.hostTransaction why) := by
  simp only [step_transaction h, runHostWord, hd]

theorem step_command {s : State} {c : Byte} {rest : List Input}
    (h : s.inputs = .transaction (BitVec.ofNat 64 c.toNat) :: rest) :
    step s = runCommand c { s with inputs := rest, cmd := c } := by
  rw [step_accepted h (decodeWord_command _ c)]
  simp [runTxn, State.writeReg]

/-- What a host write leaves in the register, and that it leaves the others. -/
theorem reg_writeReg {s : State} {r : Reg} {v : Word} (h : (HostTxn.regWrite r v).wf s.srBufCap.toNat = true) :
    (s.writeReg r v).reg r = v := by
  have k1 : ∀ c : Byte, c.toNat &&& 0xFE = 0 → (c &&& 0x01) = c := by decide
  have k2 : ∀ c : Byte, c.toNat &&& 0x70 = 0 → (c &&& 0x8F) = c := by decide
  simp only [HostTxn.wf, Bool.and_eq_true, decide_eq_true_eq] at h
  obtain ⟨⟨h1, h2⟩, h3⟩ := h
  have e8 : v.toNat < 2 ^ 8 → (v.setWidth 8).setWidth 32 = v := fun h => by
    apply BitVec.eq_of_toNat_eq
    simp
    omega
  have e16 : v.toNat < 2 ^ 16 → (v.setWidth 16).setWidth 32 = v := fun h => by
    apply BitVec.eq_of_toNat_eq
    simp
    omega
  have t8 : v.toNat < 2 ^ 8 → (v.setWidth 8).toNat = v.toNat := fun h => by
    simp
    omega
  cases r <;> simp [Reg.writable] at h1 <;>
    simp only [Reg.width, Reg.reservedMask] at h2 h3 <;> simp only [State.writeReg, State.reg] <;>
    first | exact e8 h2 | exact e16 h2 | skip
  · rw [k1 _ (by rw [t8 h2]; exact h3), e8 h2]
  · rw [k2 _ (by rw [t8 h2]; exact h3), e8 h2]

theorem regsKept_writeReg (s : State) (r : Reg) (v : Word) : RegsKept [r] s (s.writeReg r v) := by
  intro r' h
  cases r <;> first | rfl | (cases r' <;> first | rfl | simp at h)

end Sys2Proof.Machine
end

