-- ==== Sys2Proof/Laws/Transact.lean ====
section
/-! SUPPORT. The laws of the transactions and of ENCODE: what each shared operation leaves, one lemma per outcome. -/

namespace Sys2Proof.Machine

theorem ofCode?_code (op : WireOp) : WireOp.ofCode? op.code = some op := by cases op <;> rfl

theorem code_of_ofCode? {c : Byte} {op : WireOp} (h : WireOp.ofCode? c = some op) : c = op.code := by
  unfold WireOp.ofCode? at h
  split_ifs at h with h1 h2 h3 h4 h5 h6 h7 <;> cases h <;> assumption

theorem ofCode?_eq_none {c : Byte} (h : ∀ op : WireOp, c ≠ op.code) : WireOp.ofCode? c = none := by
  cases hc : WireOp.ofCode? c with
  | none => rfl
  | some op => exact absurd (code_of_ofCode? hc) (h op)

/-- What answers a request, in the terms of the table of R91. -/
theorem expect_eq (op : WireOp) (s : State) (h : op ≠ .syncread) :
    expect op (requestAddress op s) s.aLen.toNat =
      match responseLength op s with
      | some n => .response n
      | none => .nothing := by
  cases op
  case syncread => exact absurd rfl h
  case write | bwrite | btrigger =>
    simp only [expect, requestAddress, responseLength, broadcast]
    by_cases ha : s.aAddr = 254#8 <;> simp [ha]
  all_goals rfl

/-! ### ENCODE -/

theorem encodeRequest_error {op : WireOp} {s : State} {sub : Byte} (h : requestFailure op s = some sub) :
    s.encodeRequest op = { s with result := 0, err := 0x04, esub := sub } := by
  obtain ⟨c, hc, rfl⟩ := request_error h
  simp only [State.encodeRequest, hc]
  rfl

theorem encodeRequest_ok {op : WireOp} {s : State} (h : requestFailure op s = none) :
    ∃ p, RequestParams op s p ∧ p.length ≤ 249 ∧ s.encodeRequest op = { s with
      txbuf := s.txbuf.write 0 (wireFrame (requestAddress op s) op.code p),
      txlen := BitVec.ofNat 8 (p.length + 6), result := BitVec.ofNat 32 (p.length + 6),
      err := 0x00, esub := 0x00, drawCount := s.drawCount + p.length } := by
  obtain ⟨p, hp, hr, hl⟩ := request_ok h
  refine ⟨p, hr, hl, ?_⟩
  simp only [State.encodeRequest, hp, State.placeFrame, length_wireFrame, buildFrame_eq_wireFrame]
  rfl

/-! ### Transactions -/

theorem transact_syncread (s : State) :
    s.transact .syncread = { s with sv := false, result := 0, err := 0x04, esub := 0x06 } :=
  if_pos rfl

theorem transact_error {op : WireOp} {s : State} {sub : Byte} (ho : op ≠ .syncread)
    (h : requestFailure op s = some sub) :
    s.transact op = { s with sv := false, result := 0, err := 0x04, esub := sub } := by
  obtain ⟨c, hc, rfl⟩ := request_error h
  simp only [State.transact, if_neg ho, hc]
  rfl

theorem transact_silent {op : WireOp} {s : State} (ho : op ≠ .syncread) (h : requestFailure op s = none)
    (hn : responseLength op s = none) :
    ∃ p, RequestParams op s p ∧ p.length ≤ 249 ∧ s.transact op = { s with
      txbuf := s.txbuf.write 0 (wireFrame (requestAddress op s) op.code p),
      txlen := BitVec.ofNat 8 (p.length + 6),
      txout := s.txout ++ wireFrame (requestAddress op s) op.code p,
      rxq := [], sv := false, result := 0, err := 0x00, esub := 0x00, drawCount := s.drawCount + p.length } := by
  obtain ⟨p, hp, hr, hl⟩ := request_ok h
  refine ⟨p, hr, hl, ?_⟩
  have ht : s.transact op = ((s.spend p.length).transmit (buildFrame (requestAddress op s) op.code p)).endSilent := by
    simp only [State.transact, if_neg ho, hp, expect_eq op s ho, hn]
  rw [ht, State.transmit, State.placeFrame, length_buildFrame, buildFrame_eq_wireFrame]
  simp only [State.spend, State.rxFlush, State.txEmit, State.endSilent, State.observeNothing, State.setResult,
    State.succeed]

/-- The draw counter of the state plays no part in what the decode leaves. -/
theorem decodeEffect_drawCount {s t : State} {k : Nat} (h : t = { s with drawCount := k }) (r : List Byte) (a : Byte)
    (n : Nat) (i : Byte) (k' : Nat) :
    { decodeEffect r a n i t with drawCount := k' } = { decodeEffect r a n i s with drawCount := k' } := by
  subst h
  unfold decodeEffect
  split <;> rfl

/-- The bytes a transaction's `RxTake` is offered: the environment's answer, or a free value where none is listed. -/
theorem transact_answered {op : WireOp} {s : State} {n : Nat} (h : requestFailure op s = none)
    (hn : responseLength op s = some n) :
    n ≤ 249 ∧ ∃ p arrived k, RequestParams op s p ∧ p.length ≤ 249 ∧
      (∀ a rest, s.draws = a :: rest → arrived = a) ∧
      s.transact op = { decodeEffect (arrived.take (n + 6)) (requestAddress op s) n op.code { s with
        txbuf := s.txbuf.write 0 (wireFrame (requestAddress op s) op.code p),
        txlen := BitVec.ofNat 8 (p.length + 6),
        txout := s.txout ++ wireFrame (requestAddress op s) op.code p,
        rxbuf := s.rxbuf.write 0 (arrived.take (n + 6)),
        rxlen := BitVec.ofNat 8 (arrived.take (n + 6)).length,
        rxq := arrived.drop (n + 6),
        draws := s.draws.tail } with drawCount := k } := by
  have ho : op ≠ .syncread := by rintro rfl; simp [responseLength] at hn
  have hn249 : n ≤ 249 := by
    cases op <;> simp [responseLength] at hn <;> try omega
    subst hn
    by_contra hl
    by_cases ha : s.aAddr = 254#8 <;> simp [requestFailure, ha, show 249 < s.aLen.toNat by omega] at h
  obtain ⟨p, hp, hr, hl⟩ := request_ok h
  obtain ⟨sent, hs⟩ : ∃ sent, sent = (s.spend p.length).transmit (buildFrame (requestAddress op s) op.code p) :=
    ⟨_, rfl⟩
  have ht : s.transact op = sent.receiveResponse (requestAddress op s) n op.code := by
    simp only [State.transact, if_neg ho, hp, expect_eq op s ho, hn, hs]
  have hf : sent = { s with
      txbuf := s.txbuf.write 0 (wireFrame (requestAddress op s) op.code p), txlen := BitVec.ofNat 8 (p.length + 6),
      txout := s.txout ++ wireFrame (requestAddress op s) op.code p, rxq := [],
      drawCount := s.drawCount + p.length } := by
    rw [hs, State.transmit, State.placeFrame, length_buildFrame, buildFrame_eq_wireFrame]
    rfl
  obtain ⟨arrived, ha⟩ : ∃ arrived, arrived = sent.arrivals := ⟨_, rfl⟩
  refine ⟨hn249, p, arrived, sent.drawCount + 1 + (arrived.take (n + 6)).length, hr, hl, fun a rest hd => ?_, ?_⟩
  · rw [ha, State.arrivals, hf]
    simp only [hd]
  · obtain ⟨T, hT⟩ : ∃ T, T = { s with
        txbuf := s.txbuf.write 0 (wireFrame (requestAddress op s) op.code p),
        txlen := BitVec.ofNat 8 (p.length + 6),
        txout := s.txout ++ wireFrame (requestAddress op s) op.code p,
        rxbuf := s.rxbuf.write 0 (arrived.take (n + 6)),
        rxlen := BitVec.ofNat 8 (arrived.take (n + 6)).length,
        rxq := arrived.drop (n + 6),
        draws := s.draws.tail } := ⟨_, rfl⟩
    have hR : (sent.rxRest (n + 6)).placeReceived (sent.rxTaken (n + 6)) =
        { T with drawCount := sent.drawCount + 1 } := by
      rw [State.rxTaken, State.rxRest, ← ha, hT, hf, State.placeReceived]
      simp only [List.nil_append]
    rw [ht, State.receiveResponse, hR, decodeReceived_of_holds (r := arrived.take (n + 6)), ← hT]
    · exact decodeEffect_drawCount rfl _ _ _ _ _
    · rw [hT]
      exact Memory.holds_write _ _
    · rw [hT]
      simp only [BitVec.toNat_ofNat, List.length_take]
      omega

/-- The instructions that run the transaction of a wire operation. -/
theorem exec_transact {op : WireOp} {i : Instr} {s : State}
    (h : i = op.instr ∨ (i = .xact ∧ s.aInstr = op.code)) (ho : op ≠ .syncread) :
    exec i s = .next (s.transact op) := by
  rcases h with rfl | ⟨rfl, h⟩
  · cases op <;> first | rfl | exact absurd rfl ho
  · simp only [exec, execXact, h, ofCode?_code]

/-- What XACT can do: refuse the code, or run the transaction of one of the six operations. -/
theorem exec_xact_cases (s : State) :
    exec .xact s = .next { s with sv := false, result := 0, err := 0x04, esub := 0x06 } ∨
    ∃ op : WireOp, op ≠ .syncread ∧ s.aInstr = op.code ∧ exec .xact s = .next (s.transact op) := by
  cases hc : WireOp.ofCode? s.aInstr with
  | none =>
    left
    simp only [exec, execXact, hc]
    rfl
  | some op =>
    by_cases ho : op = .syncread
    · subst ho
      exact .inl (by simp only [exec, execXact, hc, transact_syncread])
    · exact .inr ⟨op, ho, code_of_ofCode? hc, by simp only [exec, execXact, hc]⟩

/-- What a transaction can do: refuse the request, end without a response, accept the response, or reject it. -/
theorem transact_cases {op : WireOp} (s : State) (ho : op ≠ .syncread) :
    (∃ sub, requestFailure op s = some sub ∧
      s.transact op = { s with sv := false, result := 0, err := 0x04, esub := sub }) ∨
    ∃ p k, RequestParams op s p ∧ p.length ≤ 249 ∧
      ((responseLength op s = none ∧ s.transact op = { s with
          txbuf := s.txbuf.write 0 (wireFrame (requestAddress op s) op.code p),
          txlen := BitVec.ofNat 8 (p.length + 6),
          txout := s.txout ++ wireFrame (requestAddress op s) op.code p,
          rxq := [], sv := false, result := 0, err := 0x00, esub := 0x00, drawCount := k }) ∨
        ∃ (n : Nat) (arrived r : List Byte), responseLength op s = some n ∧ n ≤ 249 ∧ r = arrived.take (n + 6) ∧
          ((responseFailure r (requestAddress op s) n op.code = none ∧ r.length = n + 6 ∧
            s.transact op = { s with
              txbuf := s.txbuf.write 0 (wireFrame (requestAddress op s) op.code p),
              txlen := BitVec.ofNat 8 (p.length + 6),
              txout := s.txout ++ wireFrame (requestAddress op s) op.code p,
              rxbuf := s.rxbuf.write 0 r, rxlen := BitVec.ofNat 8 r.length, rxq := arrived.drop (n + 6),
              draws := s.draws.tail, status := r.getD 4 0, sv := true, rspAddr := r.getD 2 0,
              hbuf := s.hbuf.write 0 ((r.drop 5).take n), result := BitVec.ofNat 32 n, err := 0x00, esub := 0x00,
              drawCount := k }) ∨
          ∃ c : Cause, responseFailure r (requestAddress op s) n op.code = some (c.code, c.sub) ∧
            s.transact op = { s with
              txbuf := s.txbuf.write 0 (wireFrame (requestAddress op s) op.code p),
              txlen := BitVec.ofNat 8 (p.length + 6),
              txout := s.txout ++ wireFrame (requestAddress op s) op.code p,
              rxbuf := s.rxbuf.write 0 r, rxlen := BitVec.ofNat 8 r.length, rxq := arrived.drop (n + 6),
              draws := s.draws.tail, sv := false,
              hbuf := if c.code = 0x04 then s.hbuf else s.hbuf.forget n, result := 0, err := c.code, esub := c.sub,
              drawCount := k })) := by
  cases hf : requestFailure op s with
  | some sub => exact .inl ⟨sub, rfl, transact_error ho hf⟩
  | none =>
    right
    cases hn : responseLength op s with
    | none =>
      obtain ⟨p, hr, hl, e⟩ := transact_silent ho hf hn
      exact ⟨p, s.drawCount + p.length, hr, hl, .inl ⟨rfl, e⟩⟩
    | some n =>
      obtain ⟨hn', p, arrived, k, hr, hl, -, e⟩ := transact_answered hf hn
      refine ⟨p, k, hr, hl, .inr ⟨n, arrived, arrived.take (n + 6), rfl, hn', rfl, ?_⟩⟩
      rw [e]
      rcases checkResponse_eq (arrived.take (n + 6)) (requestAddress op s) n op.code with ⟨h, -⟩ | ⟨c, h, -, -⟩
      · exact .inl ⟨h, (length_of_responseFailure h).2, by simp only [decodeEffect, h]⟩
      · exact .inr ⟨c, h, by simp only [decodeEffect, h]⟩

/-! ### SR_XFER -/

/-- What SR_XFER can do: report its first failing check, or transmit the frame and keep the bytes that arrive. -/
theorem syncReadTransfer_cases (s : State) :
    (∃ c : Cause, (c.code, c.sub) ∈ mayRaise .srXfer ∧
      s.syncReadTransfer = { s with result := 0, err := c.code, esub := c.sub }) ∨
    s.sra = true ∧ s.aCnt.toNat ≤ 247 ∧ ∃ (ids arrived : List Byte) (k : Nat), s.hbuf.Reads 0 s.aCnt.toNat ids ∧
      s.syncReadTransfer = { s with
        txbuf := s.txbuf.write 0 (wireFrame 0xFE 0x82 (s.aReg :: s.srL :: ids)),
        txlen := BitVec.ofNat 8 (s.aCnt.toNat + 8),
        txout := s.txout ++ wireFrame 0xFE 0x82 (s.aReg :: s.srL :: ids),
        srbuf := s.srbuf.write 0 (arrived.take s.srSize.toNat),
        srRawlen := BitVec.ofNat 16 (arrived.take s.srSize.toNat).length,
        result := BitVec.ofNat 32 (arrived.take s.srSize.toNat).length,
        rxq := arrived.drop s.srSize.toNat, draws := s.draws.tail, err := 0x00, esub := 0x00, drawCount := k } := by
  by_cases h0 : s.sra = false
  · exact .inl ⟨.session .notActive, by decide, by simp only [State.syncReadTransfer, if_pos h0]; rfl⟩
  by_cases h1 : s.aCnt.toNat = 0
  · exact .inl ⟨.invalidParam .badCount, by decide, by simp only [State.syncReadTransfer, if_neg h0, if_pos h1]; rfl⟩
  by_cases h2 : 247 < s.aCnt.toNat
  · exact .inl ⟨.invalidParam .tooLong, by decide,
      by simp only [State.syncReadTransfer, if_neg h0, if_neg h1, if_pos h2]; rfl⟩
  refine .inr ⟨by simpa using h0, by omega, s.hostBytes s.aCnt.toNat,
    State.arrivals { s with drawCount := s.drawCount + s.aCnt.toNat }, s.drawCount + s.aCnt.toNat + 1,
    Memory.reads_read _ _ _ _, ?_⟩
  have hl : (s.hostBytes s.aCnt.toNat).length = s.aCnt.toNat := by simp [State.hostBytes]
  simp only [State.syncReadTransfer, if_neg h0, if_neg h1, if_neg h2, State.transmit, State.placeFrame,
    buildFrame_eq_wireFrame, length_wireFrame, List.length_cons, hl, State.spend, State.rxFlush, State.txEmit,
    State.rxRest, State.rxTaken, State.setResult, State.succeed, State.arrivals, List.nil_append]
  rfl

end Sys2Proof.Machine
end

