-- ==== Sys2Proof/Tests/Slice0.lean ====
section
/-! SUPPORT. The model's own tests: well-formedness and decoding, one-step vectors taken from 95_test_vectors.md (the row
of each is named), and for every statement that has hypotheses a witness that meets them. -/

open Sys2Proof Sys2Proof.Machine

namespace Sys2Proof.Tests

/-! ### Helpers -/

/-- The state after reset with a raw buffer of 64 bytes (95_test_vectors.md, Program 3). -/
def start : State := { State.reset with srBufCap := 64 }

/-- A buffer that holds a byte list from index 0 on. -/
def holding (bytes : List Byte) : Memory := Memory.unspecified.write 0 bytes

/-- Whether an instruction has a next state of which a check holds. -/
def after (i : Instr) (s : State) (check : State → Bool) : Bool :=
  match exec i s with
  | .next t => check t
  | .fault _ => false
  | .refused _ => false

/-- Whether the step of a host word has a next state of which a check holds. -/
def afterWord (w : HostWord) (s : State) (check : State → Bool) : Bool :=
  match step { s with inputs := [.transaction w] } with
  | .next t => check t
  | .fault _ => false
  | .refused _ => false

/-- Whether the step of a host word is refused, and by which clause of R103. -/
def refusedBy (w : HostWord) : Option Malformed :=
  match step { start with inputs := [.transaction w] } with
  | .refused (.hostTransaction why) => some why
  | _ => none

/-- The bytes of a buffer from 0 on, as the host may read them. -/
def bytesOf (s : State) (b : Buf) (n : Nat) : List (Option Byte) := (List.range n).map (s.byteAt b)

/-- Operands of a request: address, register, length, count, and the host bytes. -/
def operands (a r n count : Byte) (bytes : List Byte) : State :=
  { start with aAddr := a, aReg := r, aLen := n, aCnt := count, hbuf := holding bytes }

/-- A received frame, with what DECODE compares it with, over `HBUF = AA BB CC` (95_test_vectors.md section 3). -/
def received (frame : List Byte) (a n i : Byte) : State :=
  { start with
    rxbuf := holding frame, rxlen := BitVec.ofNat 8 frame.length, aAddr := a, aLen := n, aInstr := i,
    hbuf := holding [0xAA, 0xBB, 0xCC], status := 0x77, sv := true }

/-- The frames A, B, C of 95_test_vectors.md section 5. -/
def frameA : List Byte := [0xFF, 0xFF, 0x01, 0x04, 0x00, 0x10, 0x20, 0xCA]
/-- Frame B of section 5. -/
def frameB : List Byte := [0xFF, 0xFF, 0x02, 0x04, 0x00, 0x30, 0x40, 0x89]
/-- Frame C of section 5. -/
def frameC : List Byte := [0xFF, 0xFF, 0x03, 0x04, 0x00, 0x50, 0x60, 0x48]

/-- A session for `n` nodes of `l` bytes each with a raw buffer already filled. -/
def session (n l : Byte) (raw : List Byte) (target : Byte) : State :=
  { start with
    sra := true, srN := n, srL := l, srSize := BitVec.ofNat 16 (n.toNat * (l.toNat + 6)),
    srRawlen := BitVec.ofNat 16 raw.length, srbuf := holding raw, aAddr := target }

/-- A session with a packet extracted, read up to `cur` (section 5.4). -/
def packet (b0 b1 cur ctrl sbit : Byte) : State :=
  { session 1 2 frameB 0x02 with
    pv := true, pkt := holding [b0, b1], srCur := cur, ctrl := ctrl, aSbit := sbit }

/-! ### Well-formedness: every check refuses an ill-formed transaction -/

theorem test_wf_readOnlyRegister : (HostTxn.regWrite .err 1).wf 64 = false := by decide
theorem test_wf_valueTooWide : (HostTxn.regWrite .aAddr 0x100).wf 64 = false := by decide
theorem test_wf_reservedField : (HostTxn.regWrite .aSbit 0x10).wf 64 = false := by decide
theorem test_wf_hostBufferIndex : (HostTxn.bufWrite 256 0).wf 64 = false := by decide
theorem test_wf_bufferIndex : (HostTxn.bufRead .srbuf 64).wf 64 = false := by decide
theorem test_wf_accepts : (HostTxn.regWrite .aSbit 0x8F).wf 64 = true ∧ (HostTxn.bufRead .srbuf 63).wf 64 = true := by
  decide

/-! ### Decoding: the words of R95, R86, R105 and section 7, bit by bit from R100 -/

/-- Section 7 and R103: one word for each clause, refused by its name. -/
theorem test_refused_words :
    refusedBy 0x0001000700000001 = some .reservedBits ∧ refusedBy 0xF000000000000000 = some .reservedSpace ∧
    refusedBy 0x8000000000000000 = some .spaceOfOtherKind ∧ refusedBy 0x0800000000000000 = some .spaceOfOtherKind ∧
    refusedBy 0x9000000000000001 = some .bufferNotWritable ∧ refusedBy 0xC800010000000000 = some .indexTooLarge ∧
    refusedBy 0x4000001800000000 = some .indexTooLarge ∧ refusedBy 0x4000000200000001 = some .readWithValue ∧
    refusedBy 0x0000000200000001 = some .registerReadOnly ∧ refusedBy 0x0000000700000100 = some .valueTooWide ∧
    refusedBy 0x8800000000000100 = some .byteTooWide ∧ refusedBy 0x0000000100000002 = some .reservedField ∧
    refusedBy 0x0000000D00000010 = some .reservedField := by decide

theorem test_decode_wireRows :
    decodeTableWord 8 0x01 = some .ping ∧ decodeTableWord 8 0x02 = some .read ∧ decodeTableWord 8 0x03 = some .write ∧
    decodeTableWord 8 0x04 = some .bwrite ∧ decodeTableWord 8 0x05 = some .btrigger ∧
    decodeTableWord 8 0x82 = some .syncread ∧ decodeTableWord 8 0x83 = some .syncwrite ∧
    decodeTableWord 8 0x06 = none ∧ decodeTableWord 8 0x81 = none := by decide

theorem test_decode_frameCommandRows :
    decodeTableWord 64 0x00 = some .nop ∧ decodeTableWord 64 0x01 = some .cksum ∧
    decodeTableWord 64 0x02 = some .encode ∧ decodeTableWord 64 0x03 = some .decode ∧
    decodeTableWord 64 0x04 = some .send ∧ decodeTableWord 64 0x05 = some .flushRx ∧
    decodeTableWord 64 0x06 = some .recv ∧ decodeTableWord 64 0x07 = some .xact ∧
    decodeTableWord 64 0x08 = none := by decide

theorem test_decode_sessionCommandRows :
    decodeTableWord 64 0x10 = some .srBegin ∧ decodeTableWord 64 0x11 = some .srXfer ∧
    decodeTableWord 64 0x12 = some .srExtract ∧ decodeTableWord 64 0x13 = some .srNextByte ∧
    decodeTableWord 64 0x14 = some .srNextWord ∧ decodeTableWord 64 0x15 = some .srEnd ∧
    decodeTableWord 64 0x16 = none := by decide

theorem test_decode_endianCommandRows :
    decodeTableWord 64 0x20 = some .h2b ∧ decodeTableWord 64 0x21 = some .b2h ∧
    decodeTableWord 64 0x22 = some .smDec ∧ decodeTableWord 64 0x23 = some .smEnc ∧
    decodeTableWord 64 0x24 = none := by decide

/-- R105 and Programs 1 to 4: the words of the transaction forms. -/
theorem test_decode_programWords :
    decodeWord 64 0x0000000FFFFFFF9C = .ok (.regWrite .aVal 0xFFFFFF9C) ∧
    decodeWord 64 0x4000001000000000 = .ok (.regRead .result) ∧
    decodeWord 64 0x8800000200000003 = .ok (.bufWrite 2 3) ∧
    decodeWord 64 0xD800000400000000 = .ok (.bufRead .rxbuf 4) := by decide

/-- Programs 1, 2 and 3: pseudo-instructions. -/
theorem test_assemble_programs :
    assemble [.read 1 0x38 2] =
      [0x0000000800000002, 0x0000000700000001, 0x0000000900000038, 0x0000000A00000002, 0x0000000000000007] ∧
    assemble [.srxfer 0x38 [1, 2, 3]] =
      [0x8800000000000001, 0x8800000100000002, 0x8800000200000003, 0x0000000900000038, 0x0000000B00000003,
        0x0000000000000011] := by decide

/-- R105: a line of text with a comment. -/
theorem test_assemble_text :
    assembleText? ['w', 'r', ' ', 'A', '_', 'A', 'D', 'D', 'R', ',', ' ', '0', 'x', '0', '1', ' ', ';', 'c'] =
      some [0x0000000700000001] := by decide

/-! ### Host transactions (section 7) -/

theorem test_illegalCommand : -- G-2
    afterWord 0x08 start (fun t => t.err = 5 && t.esub = 0 && t.cmd = 0x08) = true := by decide

theorem test_readResult : -- G-15
    afterWord 0x4000001000000000 { start with result := 0x2010 } (fun t => t.hostReads = [0x2010]) = true := by decide

theorem test_writeStoresOnly : -- Program 2
    afterWord 0x0000000D0000008F start (fun t => t.signBit = 15 && t.signEnable && t.err = 0) = true := by decide

/-! ### The frame codec (sections 2 and 3) -/

theorem test_nop : -- G-1
    after .nop { start with err := 1, esub := 2, result := 7 } (fun t => t.err = 0 && t.result = 7) = true := by decide

theorem test_cksum : -- section 2.1, row 4
    after .cksum (operands 0 0 6 0 [0x01, 0x05, 0x03, 0x2A, 0x01, 0x02]) (fun t => t.result = 0xC9) = true := by decide

theorem test_cksum_wraps : -- section 2.1, row 3
    after .cksum (operands 0 0 3 0 [0xFE, 0x02, 0x05]) (fun t => t.result = 0xFA) = true := by decide

theorem test_encode_write : -- N8
    after .encode { operands 0x01 0x2A 2 0 [0x01, 0x02] with aInstr := 0x03 } (fun t => t.txlen = 9 &&
      bytesOf t .txbuf 9 = [0xFF, 0xFF, 0x01, 0x05, 0x03, 0x2A, 0x01, 0x02, 0xC9].map some) = true := by decide

theorem test_encode_broadcastReadFirst : -- E5
    after .encode { operands 0xFE 0x38 250 0 [] with aInstr := 0x02 }
      (fun t => t.err = 4 && t.esub = 2 && t.txlen = 0) = true := by decide

theorem test_decode_ok : -- D-1
    after .decode (received frameA 1 2 2) (fun t => t.result = 2 && t.sv && t.status = 0 && t.rspAddr = 1 &&
      bytesOf t .hbuf 3 = [some 0x10, some 0x20, some 0xCC]) = true := by decide

theorem test_decode_headerFirst : -- D-7
    after .decode (received [0x00, 0x00, 0x02, 0x04, 0x00, 0x10, 0x20, 0xCA] 1 2 2)
      (fun t => t.err = 2 && t.esub = 1 && !t.sv && t.status = 0x77 &&
        bytesOf t .hbuf 3 = [none, none, some 0xCC]) = true := by decide

/-! ### Transactions (section 4) -/

theorem test_ping : -- X1
    after .ping { operands 1 0 0 0 [] with draws := [[0xFF, 0xFF, 0x01, 0x02, 0x00, 0xFC]] }
      (fun t => t.err = 0 && t.sv && t.rspAddr = 1 && t.rxlen = 6 &&
        t.txout = [0xFF, 0xFF, 0x01, 0x02, 0x01, 0xFB]) = true := by decide

theorem test_ping_otherNode : -- X3
    after .ping { operands 2 0 0 0 [] with draws := [[0xFF, 0xFF, 0x03, 0x02, 0x00, 0xFA]] }
      (fun t => t.err = 2 && t.esub = 2 && !t.sv && t.result = 0) = true := by decide

theorem test_read : -- X13
    after .read { operands 1 0x38 2 0 [] with draws := [frameA ++ [0x77]] }
      (fun t => t.err = 0 && t.result = 2 && t.rxq = [0x77] && bytesOf t .hbuf 2 = [some 0x10, some 0x20] &&
        t.txout = [0xFF, 0xFF, 0x01, 0x04, 0x02, 0x38, 0x02, 0xBE]) = true := by decide

theorem test_read_short : -- X10
    after .read { operands 1 0x38 2 0 [] with draws := [[0xFF, 0xFF, 0x01, 0x04, 0x00]] }
      (fun t => t.err = 1 && t.rxlen = 5 && t.result = 0 && bytesOf t .hbuf 2 = [none, none]) = true := by decide

theorem test_write : -- X5
    after .write { operands 1 0x2A 2 0 [1, 2] with draws := [[0xFF, 0xFF, 0x01, 0x02, 0x00, 0xFC]] }
      (fun t => t.err = 0 && t.sv && t.txout = [0xFF, 0xFF, 0x01, 0x05, 0x03, 0x2A, 0x01, 0x02, 0xC9]) = true := by
  decide

theorem test_write_broadcast : -- X6
    after .write { operands 0xFE 0x2A 2 0 [1, 2] with draws := [[0x55]], rxlen := 3 }
      (fun t => t.err = 0 && !t.sv && t.rxlen = 3 && t.draws = [[0x55]]) = true := by decide

theorem test_bwrite : -- X7
    after .bwrite { operands 1 0x2A 2 0 [1, 2] with draws := [[0xFF, 0xFF, 0x01, 0x02, 0x00, 0xFC]] }
      (fun t => t.err = 0 && t.txout = [0xFF, 0xFF, 0x01, 0x05, 0x04, 0x2A, 0x01, 0x02, 0xC8]) = true := by decide

theorem test_btrigger : -- X8
    after .btrigger (operands 0xFE 0 0 0 [])
      (fun t => t.err = 0 && !t.sv && t.txout = [0xFF, 0xFF, 0xFE, 0x02, 0x05, 0xFA]) = true := by decide

theorem test_syncwrite : -- X9
    after .syncwrite (operands 0 0x2A 2 2 [0x01, 0x01, 0x02, 0x02, 0x03, 0x04])
      (fun t => t.err = 0 && t.txout =
        [0xFF, 0xFF, 0xFE, 0x0A, 0x83, 0x2A, 0x02, 0x01, 0x01, 0x02, 0x02, 0x03, 0x04, 0x3B]) = true := by decide

theorem test_xact_flushes : -- X14
    after .xact { operands 1 0 0 0 [] with
        aInstr := 0x01, rxq := [0x00, 0x11], draws := [[0xFF, 0xFF, 0x01, 0x02, 0x00, 0xFC]] }
      (fun t => t.err = 0 && t.rxq = []) = true := by decide

theorem test_xact_syncread : -- X12
    after .xact { start with aInstr := 0x82 } (fun t => t.err = 4 && t.esub = 6 && t.txout = []) = true := by decide

theorem test_send : -- X16, and Program 4
    after .send start (fun t => t.err = 0 && t.txout = []) = true ∧
    after .send { start with txbuf := holding [0xFF, 0xFF, 0x02, 0x02, 0x01, 0xFA], txlen := 6 }
      (fun t => t.result = 6 && t.txout = [0xFF, 0xFF, 0x02, 0x02, 0x01, 0xFA]) = true := by decide

theorem test_flushRx : after .flushRx { start with rxq := [1, 2] } (fun t => t.rxq = []) = true := by decide

theorem test_recv : -- X15
    after .recv { start with aLen := 6, rxq := [0xFF], draws := [[0xFF, 0x01, 0x02, 0x00, 0xFC, 0x77]] }
      (fun t => t.result = 6 && t.rxlen = 6 && t.rxq = [0x77] &&
        bytesOf t .rxbuf 6 = [0xFF, 0xFF, 0x01, 0x02, 0x00, 0xFC].map some) = true := by decide

/-! ### The sync-read session (section 5) -/

theorem test_srBegin : -- 5.1 step 1
    after .srBegin { start with aCnt := 3, aLen := 2 }
      (fun t => t.sra && t.srN = 3 && t.srL = 2 && t.srSize = 24 && t.result = 24) = true := by decide

theorem test_srBegin_alloc : -- Q3
    after .srBegin { start with aCnt := 3, aLen := 2, srBufCap := 16 } (fun t => t.err = 3 && !t.sra) = true := by
  decide

theorem test_srXfer : -- 5.1 step 2
    after .srXfer { session 3 2 [] 0 with
        aCnt := 3, aReg := 0x38, hbuf := holding [1, 2, 3], draws := [frameA ++ frameB ++ frameC] }
      (fun t => t.srRawlen = 24 && bytesOf t .srbuf 24 = (frameA ++ frameB ++ frameC).map some && t.txout =
        [0xFF, 0xFF, 0xFE, 0x07, 0x82, 0x38, 0x02, 0x01, 0x02, 0x03, 0x38]) = true := by decide

theorem test_syncread_silentNode : -- Q9
    after .syncread { session 3 2 [] 0 with
        aCnt := 3, aReg := 0x38, hbuf := holding [1, 2, 3], draws := [frameA ++ frameC] }
      (fun t => t.err = 0 && t.result = 16) = true := by decide

theorem test_srExtract : -- 5.1 step 3
    after .srExtract (session 3 2 (frameA ++ frameB ++ frameC) 3)
      (fun t => t.pv && t.result = 2 && t.rspAddr = 3 && bytesOf t .pkt 2 = [some 0x50, some 0x60]) = true := by decide

/-- Section 5.2: K1, M1, P3, R1 and T1. -/
theorem test_scanner :
    scan 1 2 ([0xFF, 0xFF, 0x01, 0x04, 0x00, 0x10, 0x20, 0xCB] ++ frameB) = .checksum ∧
    scan 1 2 ([0xFF, 0xFF, 0x01, 0x05, 0x00, 0x01, 0x02, 0x03, 0xF3] ++ frameA) = .found 9 0 [0x10, 0x20] ∧
    scan 1 2 ([0xFF, 0xFF, 0xFF] ++ frameA) = .found 3 0 [0x10, 0x20] ∧
    scan 1 2 ([0xFF, 0xFF, 0x01] ++ frameA) = .notFound ∧
    scan 3 2 (frameA ++ frameB ++ frameC.take 7) = .truncated := by decide

theorem test_srNextByte : -- V1
    after .srNextByte (packet 0x30 0x40 0 0 0) (fun t => t.result = 0x30 && t.srCur = 1) = true := by decide

theorem test_srNextByte_exhausted : -- V3
    after .srNextByte (packet 0x30 0x40 2 0 0) (fun t => t.result = 0xFFFFFFFF && t.err = 7 && t.srCur = 2) = true := by
  decide

theorem test_srNextWord_bigEndian : -- V5
    after .srNextWord (packet 0x30 0x40 0 1 0) (fun t => t.result = 0x3040 && t.srCur = 2) = true := by decide

theorem test_srNextWord_signed : -- V8
    after .srNextWord (packet 0x64 0x80 0 0 0x8F) (fun t => t.result = 0xFFFFFF9C) = true := by decide

theorem test_srEnd : -- Program 3
    after .srEnd (packet 0x30 0x40 1 0 0)
      (fun t => !t.sra && !t.pv && t.srSize = 0 && t.srCur = 0 && t.result = 0) = true := by decide

/-! ### Byte order and sign-magnitude (section 6) -/

theorem test_h2b : -- H1, H4
    after .h2b { start with aWord := 0x1234 } (fun t => bytesOf t .hbuf 2 = [some 0x34, some 0x12]) = true ∧
    after .h2b { start with aIdx := 255 } (fun t => t.err = 4 && t.esub = 4) = true := by decide

theorem test_b2h : -- H5, H6
    after .b2h (operands 0 0 0 0 [0x10, 0x20]) (fun t => t.result = 0x2010) = true ∧
    after .b2h { operands 0 0 0 0 [0x10, 0x20] with ctrl := 1 } (fun t => t.result = 0x1020) = true := by decide

theorem test_smDec : -- section 6.2
    after .smDec { start with aWord := 0x8064, aSbit := 0x8F } (fun t => t.result = 0xFFFFFF9C) = true ∧
    after .smDec { start with aWord := 0xFFFF, aSbit := 0x80 } (fun t => t.result = 0xFFFF0002) = true ∧
    after .smDec { start with aWord := 0x8064, aSbit := 0x0F } (fun t => t.result = 0x8064) = true := by decide

theorem test_smEnc : -- section 6.3
    after .smEnc { start with aVal := 0xFFFFFF9C, aSbit := 0x8A } (fun t => t.result = 0x464) = true ∧
    after .smEnc { start with aVal := 0xFFFF0002, aSbit := 0x80 } (fun t => t.result = 0xFFFF) = true := by decide

theorem test_smEnc_notRepresentable : -- section 6.3
    after .smEnc { start with aVal := 0xFFFFFC00, aSbit := 0x8A } (fun t => t.err = 4 && t.esub = 5) = true ∧
    after .smEnc { start with aVal := 0x00008000, aSbit := 0x8F } (fun t => t.err = 4 && t.esub = 5) = true := by decide

/-! ### Witnesses: a state and operands that meet the hypotheses of each statement, clause by clause -/

/-- A state in which the host's next transaction is a word. -/
def issuing (w : HostWord) : State := { start with inputs := [.transaction w] }

theorem witness_hostWordDecodes :
    (HostTxn.regWrite .aVal 0xFFFFFFFF).wf 64 = true ∧ (HostTxn.regRead .srCur).wf 64 = true ∧
    (HostTxn.bufWrite 255 0xFF).wf 64 = true ∧ (HostTxn.bufRead .pkt 248).wf 0 = true ∧
    (HostTxn.bufRead .srbuf 65534).wf 65535 = true := by decide

theorem witness_acceptedHostWord :
    decodeWord 0 0x0000000100000001 = .ok (.regWrite .ctrl 1) ∧
    decodeWord 64 0xE000003F00000000 = .ok (.bufRead .srbuf 63) := by decide

theorem witness_illegalCodes :
    ∀ c ∈ ([0x08, 0x0F, 0x16, 0x1F, 0x24, 0xFF] : List Byte),
      ((0x08 ≤ c.toNat ∧ c.toNat ≤ 0x0F) ∨ (0x16 ≤ c.toNat ∧ c.toNat ≤ 0x1F) ∨ 0x24 ≤ c.toNat) ∧
      (issuing (BitVec.ofNat 64 c.toNat)).inputs = .transaction (BitVec.ofNat 64 c.toNat) :: [] := by decide

/-- R103 can be decided for a word. -/
def refusedWordDecidable (cap : Nat) (w : HostWord) : Decidable (RefusedWord cap w) := by
  delta RefusedWord
  infer_instance

/-- Whether R103 refuses a word, with a raw buffer of 64 bytes. -/
def refuses (w : HostWord) : Bool := @decide _ (refusedWordDecidable 64 w)

/-- One word under each clause of R103 (a) to (i). -/
def refusedWords : List HostWord :=
  [0x0001000700000001, 0xF000000000000000, 0x8000000000000000, 0x9000000000000001, 0xC800010000000000] ++
  [0x4000000200000001, 0x0000000200000000, 0x0000001000000000, 0x0000000700000100, 0x0000000E00010000] ++
  [0x8800000000000100, 0x0000000100000002, 0x0000000D00000010]

/-- Words that no clause refuses, at the boundaries of the clauses. -/
def acceptedWords : List HostWord :=
  [0x00000000000000FF, 0x0000000E0000FFFF, 0x0000000FFFFFFFFF, 0x0000000D0000008F, 0x880000FF000000FF] ++
  [0xE000003F00000000, 0x4000001700000000]

theorem witness_refusedClauses :
    (∀ w ∈ refusedWords, (issuing w).inputs = .transaction w :: [] ∧ RefusedWord (issuing w).srBufCap.toNat w) ∧
    ∀ w ∈ acceptedWords, (issuing w).inputs = .transaction w :: [] ∧ ¬ RefusedWord (issuing w).srBufCap.toNat w := by
  have refused : ∀ w ∈ refusedWords, refuses w = true := List.all_eq_true.mp rfl
  have accepted : ∀ w ∈ acceptedWords, (!refuses w) = true := List.all_eq_true.mp rfl
  exact ⟨fun w hw => ⟨rfl, of_decide_eq_true (inst := refusedWordDecidable 64 w) (refused w hw)⟩,
    fun w hw => ⟨rfl, of_decide_eq_false (inst := refusedWordDecidable 64 w) (Bool.not_eq_true' _ ▸ accepted w hw)⟩⟩

theorem witness_commandCodes :
    ((0x23 : Byte), Instr.smEnc) ∈ ([(0x00, .nop), (0x07, .xact), (0x23, .smEnc)] : List (Byte × Instr)) ∧
    (issuing 0x23).inputs = .transaction (BitVec.ofNat 64 (0x23 : Byte).toNat) :: [] := by decide

theorem witness_wireInstruction :
    (({ start with aInstr := 0x83 } : State).aInstr, Instr.syncwrite) ∈ ([(0x01, .ping), (0x02, .read), (0x03, .write),
      (0x04, .bwrite), (0x05, .btrigger), (0x83, .syncwrite)] : List (Byte × Instr)) := by decide

theorem witness_arrival :
    ({ start with inputs := [.arrival [0xFF]] } : State).inputs = .arrival [0xFF] :: [] ∧ start.inputs = [] := by decide

/-- The four kinds; the two reads of `STATUS`; a byte that is specified. -/
theorem witness_hostAccesses :
    decodeWord (issuing 0x0000000F00000001).srBufCap.toNat 0x0000000F00000001 = .ok (.regWrite .aVal 1) ∧
    Reg.aVal ≠ .cmd ∧
    decodeWord start.srBufCap.toNat 0x4000000400000000 = .ok (.regRead .status) ∧
    ({ start with sv := true } : State).sv = true ∧ Reg.err ≠ .status ∧
    decodeWord start.srBufCap.toNat 0x880000FF000000FF = .ok (.bufWrite 255 0xFF) ∧
    decodeWord start.srBufCap.toNat 0xC800000000000000 = .ok (.bufRead .hbuf 0) ∧
    (operands 0 0 0 0 [9]).byteAt .hbuf 0 = some 9 := by decide

theorem witness_pseudoInstructions : Instr.xact.commandCode? = some 0x07 := by decide

theorem witness_bufferWrites : (holding [1, 2]).wf 255 ∧ 253 + ([3, 4] : List Byte).length ≤ 255 := by decide

/-- An unlisted code; a failing check; a request without one, at the largest length. -/
theorem witness_encode :
    (∀ op : WireOp, start.aInstr ≠ op.code) ∧
    ({ operands 1 0 249 0 [] with aInstr := 0x03 } : State).aInstr = WireOp.write.code ∧
    requestFailure .write { operands 1 0 249 0 [] with aInstr := 0x03 } = some 0x01 ∧
    requestFailure .write { operands 1 0 248 0 [] with aInstr := 0x03 } = none := by
  refine ⟨fun op => by cases op <;> decide, by decide, by decide, by decide⟩

theorem witness_frameLength :
    (∃ t, exec .encode { operands 1 0 0 0 [] with aInstr := 0x01 } = .next t ∧ t.err = 0x00) ∧
    ∃ t, exec .srXfer { session 1 2 [] 0 with aCnt := 1, draws := [[]] } = .next t ∧ t.err = 0x00 :=
  ⟨⟨_, rfl, by decide⟩, ⟨_, rfl, by decide⟩⟩

theorem witness_frameRoundTrip :
    let s := { received (buildFrame 0x01 0x03 [0x2A, 0xFF]) 0x01 2 0 with aInstr := 0x03 }
    ([0x2A, 0xFF] : List Byte).length ≤ 249 ∧ s.aLen.toNat = 2 ∧ s.rxlen.toNat = 2 + 6 ∧
    ∀ j, j < (buildFrame s.aAddr 0x03 [0x2A, 0xFF]).length →
      s.rxbuf.load j = (buildFrame s.aAddr 0x03 [0x2A, 0xFF])[j]? := by decide

theorem witness_addressDiscrimination :
    let s := received (wireFrame 0x03 0x00 []) 0x02 0 0x01
    s.aLen.toNat = ([] : List Byte).length ∧ s.rxlen.toNat = ([] : List Byte).length + 6 ∧ (0x03 : Byte) ≠ s.aAddr ∧
    ¬ (s.aInstr = 0x01 ∧ s.aAddr = 0xFE) ∧
    ∀ j, j < (wireFrame 0x03 0x00 []).length → s.rxbuf.load j = (wireFrame 0x03 0x00 [])[j]? := by decide

/-- Frame A with one byte changed at each boundary position, and with two changes that cancel; a broadcast Ping's
response with its address byte changed. -/
theorem witness_singleByteErrors :
    wireFrame 0x01 0x00 [0x10, 0x20] = frameA ∧
    (∀ j ∈ ([4, 7] : List Nat), frameA[j]? ≠ some 0x55 ∧
      (let s := received (frameA.set j 0x55) 1 2 2;
        s.aLen.toNat = 2 ∧ s.rxlen.toNat = 2 + 6 ∧ (0x01 : Byte) = s.aAddr ∧
        ∀ k, k < (frameA.set j 0x55).length → s.rxbuf.load k = (frameA.set j 0x55)[k]?)) ∧
    (let s := received ((wireFrame 0x05 0x00 []).set 2 0x06) 0xFE 0 1;
      s.aInstr = 0x01 ∧ s.aAddr = 0xFE ∧ (0x06 : Byte) ≠ 0x05 ∧ s.rxlen.toNat = 0 + 6) ∧
    (let s := received (frameA.set 1 0xFE) 1 2 2;
      (0xFE : Byte) ≠ 0xFF ∧ 1 < 2 ∧ s.rxlen.toNat = 2 + 6 ∧
      ∀ k, k < (frameA.set 1 0xFE).length → s.rxbuf.load k = (frameA.set 1 0xFE)[k]?) ∧
    (0x05 : Byte) ≠ BitVec.ofNat 8 (2 + 2) ∧
    (wireFrame 0x01 0x00 [0x10, 0x20])[2 + 5]? = some 0xCA ∧
    ((0x01 : Byte).toNat + (0x01 : Byte).toNat + (([0x11, 0x1F] : List Byte).map BitVec.toNat).sum +
        (0xC9 : Byte).toNat) % 256 =
      ((0x01 : Byte).toNat + (0x00 : Byte).toNat + (([0x10, 0x20] : List Byte).map BitVec.toNat).sum +
        (0xCA : Byte).toNat) % 256 := by
  decide

/-- Each answered operation, as the wire instruction and as XACT, at the boundary lengths. -/
theorem witness_answered :
    requestFailure .ping (operands 0xFE 0 0 0 []) = none ∧ responseLength .ping (operands 0xFE 0 0 0 []) = some 0 ∧
    requestFailure .read (operands 1 0 249 0 []) = none ∧ responseLength .read (operands 1 0 249 0 []) = some 249 ∧
    requestFailure .write (operands 1 0 248 0 []) = none ∧ responseLength .write (operands 1 0 248 0 []) = some 0 ∧
    requestFailure .bwrite (operands 1 0 0 0 []) = none ∧ responseLength .bwrite (operands 1 0 0 0 []) = some 0 ∧
    responseLength .btrigger (operands 1 0 0 0 []) = some 0 ∧
    ({ operands 1 0 249 0 [] with aInstr := 0x02 } : State).aInstr = WireOp.read.code := by decide

theorem witness_silent :
    requestFailure .syncwrite (operands 0 0 246 1 []) = none ∧ responseLength .syncwrite (operands 0 0 246 1 []) = none ∧
    WireOp.syncwrite ≠ .syncread ∧
    requestFailure .write (operands 0xFE 0 248 0 []) = none ∧ responseLength .write (operands 0xFE 0 248 0 []) = none ∧
    responseLength .bwrite (operands 0xFE 0 0 0 []) = none ∧ responseLength .btrigger (operands 0xFE 0 0 0 []) = none ∧
    ({ operands 0xFE 0 0 0 [] with aInstr := 0x05 } : State).aInstr = WireOp.btrigger.code := by decide

theorem witness_refusedRequest :
    requestFailure .read (operands 0xFE 0 250 0 []) = some 0x02 ∧ requestFailure .read (operands 1 0 250 0 []) = some 0x01 ∧
    requestFailure .bwrite (operands 1 0 249 0 []) = some 0x01 ∧
    requestFailure .syncwrite (operands 0 0 247 1 []) = some 0x01 ∧
    requestFailure .syncwrite (operands 0 0 247 0 []) = some 0x03 ∧
    ({ start with aInstr := 0x82 } : State).aInstr ∉ ([0x01, 0x02, 0x03, 0x04, 0x05, 0x83] : List Byte) := by decide

theorem witness_readExactness :
    (∃ t, exec .xact { operands 1 0x38 2 0 [] with aInstr := 0x02, draws := [frameA] } = .next t ∧ t.err = 0x00) ∧
    ∃ t, exec .xact { operands 1 0x38 2 0 [] with aInstr := 0x02, draws := [frameA.take 7] } = .next t ∧ t.err ≠ 0x00 :=
  ⟨⟨_, rfl, by decide⟩, ⟨_, rfl, by decide⟩⟩

theorem witness_broadcastSilence :
    ({ start with aInstr := 0x83 } : State).aInstr = 0x83 ∧
    ({ operands 0xFE 0 0 0 [] with aInstr := 0x03 } : State).aAddr = 0xFE ∧
    ({ operands 0xFE 0 0 0 [] with aInstr := 0x03 } : State).aInstr = 0x03 := by decide

theorem witness_oneRequest :
    ∃ t, exec .xact { operands 1 0 0 0 [] with aInstr := 0x01, draws := [[]] } = .next t ∧ t.txout.length = 6 :=
  ⟨_, rfl, by decide⟩

/-- Each check of SR_BEGIN, and the capacity at its boundary. -/
theorem witness_srBegin :
    (session 1 2 [] 0).sra = true ∧ start.sra = false ∧ start.aCnt = 0 ∧
    (let s := { start with aCnt := 1, aLen := 250 }; s.sra = false ∧ s.aCnt ≠ 0 ∧ s.aLen.toNat > 249) ∧
    (let s := { start with aCnt := 4, aLen := 10, srBufCap := 63 };
      s.sra = false ∧ s.aCnt ≠ 0 ∧ s.aLen.toNat ≤ 249 ∧ s.aCnt.toNat * (s.aLen.toNat + 6) > s.srBufCap.toNat) ∧
    (let s := { start with aCnt := 4, aLen := 10 };
      s.sra = false ∧ s.aCnt ≠ 0 ∧ s.aLen.toNat ≤ 249 ∧ s.aCnt.toNat * (s.aLen.toNat + 6) ≤ s.srBufCap.toNat) := by
  decide

theorem witness_srXfer :
    start.sra = false ∧ (session 1 2 [] 0).sra = true ∧ (session 1 2 [] 0).aCnt = 0 ∧
    (let s := { session 1 2 [] 0 with aCnt := 248 }; s.sra = true ∧ s.aCnt.toNat > 247) ∧
    (let s := { session 1 2 [] 0 with aCnt := 247 }; s.sra = true ∧ s.aCnt ≠ 0 ∧ s.aCnt.toNat ≤ 247) := by decide

theorem witness_resume :
    findHeader [0xFF, 0xFF, 0x01, 0xFF, 0xFF, 0x01] 0 = some 0 ∧
    findHeader [0xFF, 0xFF, 0x01, 0xFF, 0xFF, 0x01] 4 ≠ findHeader [0xFF, 0xFF, 0x01, 0xFF, 0xFF, 0x01] 3 := by decide

theorem witness_extract :
    start.sra = false ∧ (session 1 2 frameA 1).sra = true ∧ (session 1 2 frameA 1).SessionInvariant := by
  unfold State.SessionInvariant
  decide

/-- Frames A and B in the raw buffer: both are extracted, and address 3 is not found. -/
theorem witness_extractionIndependence :
    let s := session 2 2 (frameA ++ frameB) 0x01
    let frames : List (Byte × Byte × List Byte) := [(0x01, 0x00, [0x10, 0x20]), (0x02, 0x00, [0x30, 0x40])]
    s.sra = true ∧ s.srL.toNat ≤ 249 ∧
    (∀ f ∈ frames, f.2.2.length = s.srL.toNat ∧ f.1 ≠ 0xFF ∧ ∀ j, j < 8 → 2 ≤ j →
      ¬ ((wireFrame f.1 f.2.1 f.2.2)[j]? = some 0xFF ∧ (wireFrame f.1 f.2.1 f.2.2)[j + 1]? = some 0xFF)) ∧
    (frames.map (fun f => f.1)).Nodup ∧
    frames.flatMap (fun f => wireFrame f.1 f.2.1 f.2.2) = frameA ++ frameB ∧
    (∀ j, j < (frameA ++ frameB).length → s.srbuf.load j = (frameA ++ frameB)[j]?) ∧
    s.srRawlen.toNat = (frameA ++ frameB).length ∧
    (s.aAddr, (0x00 : Byte), ([0x10, 0x20] : List Byte)) ∈ frames ∧
    ({ s with aAddr := 0x03 } : State).aAddr ∉ frames.map (fun f => f.1) := by decide

/-- Frame A, then 2, 3 and 7 bytes of frame B: the boundaries of the two results. -/
theorem witness_truncation :
    wireFrame 0x02 0x00 [0x30, 0x40] = frameB ∧ ∀ k ∈ ([2, 3, 7] : List Nat),
      let raw := frameA ++ frameB.take k
      let s := session 2 2 raw 0x02
      s.sra = true ∧ s.aAddr ≠ 0xFF ∧ ([0x30, 0x40] : List Byte).length = s.srL.toNat ∧ k < 2 + 6 ∧
      (∀ j, j < raw.length → s.srbuf.load j = raw[j]?) ∧ s.srRawlen.toNat = raw.length ∧
      ∀ h, h < frameA.length → raw[h + 2]? = some s.aAddr → ¬ (raw[h]? = some 0xFF ∧ raw[h + 1]? = some 0xFF) := by
  decide

theorem witness_truncation_bytes :
    (∀ j, j < (session 1 2 frameA 1).srRawlen.toNat →
      (holding (frameA ++ [0x77])).load j = (session 1 2 frameA 1).srbuf.load j) ∧
    ∃ t, exec .srExtract (session 1 2 frameA 1) = .next t ∧ t.err = 0x00 :=
  ⟨by decide, _, rfl, by decide⟩

theorem witness_addressFF : (session 1 2 frameA 0xFF).sra = true ∧ (session 1 2 frameA 0xFF).aAddr = 0xFF := by decide

/-- The cursor on both sides of the boundary, for the byte and for the word; and no packet. -/
theorem witness_decoders :
    start.pv = false ∧ (packet 1 2 2 0 0).srCur.toNat ≥ (packet 1 2 2 0 0).srL.toNat ∧
    (packet 1 2 1 0 0).pv = true ∧ (packet 1 2 1 0 0).srCur.toNat < (packet 1 2 1 0 0).srL.toNat ∧
    (packet 1 2 1 0 0).srCur.toNat + 2 > (packet 1 2 1 0 0).srL.toNat ∧
    (packet 1 2 0 0 0).srCur.toNat + 2 ≤ (packet 1 2 0 0 0).srL.toNat := by decide

theorem witness_srEnd : (packet 1 2 0 0 0).sra = true ∧ start.sra = false := by decide

theorem witness_useWithoutASession :
    start.sra = false ∧ start.pv = false ∧ start.srCur = 0 := by decide

/-- Both halves of the session's life, and an instruction of another family. -/
theorem witness_sessionLifecycle :
    (start.SessionInvariant ∧ start.sra = false ∧ ∃ t, exec .srBegin start = .next t) ∧
    ((packet 1 2 0 0 0).SessionInvariant ∧ (packet 1 2 0 0 0).sra = true ∧ ∃ t, exec .srEnd (packet 1 2 0 0 0) = .next t) ∧
    Instr.cksum ∉ ([.srBegin, .srXfer, .syncread, .srExtract, .srNextByte, .srNextWord, .srEnd] : List Instr) := by
  unfold State.SessionInvariant
  exact ⟨⟨by decide, by decide, _, rfl⟩, ⟨by decide, by decide, _, rfl⟩, by decide⟩

theorem witness_pairs :
    ({ start with aIdx := 255 } : State).aIdx = 255 ∧ ({ start with aIdx := 254 } : State).aIdx ≠ 255 := by decide

/-- The five cases of SM_ENC, at the ends of the ranges. -/
theorem witness_smEnc :
    (let s := { start with aVal := 0x0000FFFF, aSbit := 0x0F };
      s.aSbit.getLsbD 7 = false ∧ 0 ≤ s.aVal.toInt ∧ s.aVal.toInt ≤ 0xFFFF) ∧
    (let s := { start with aVal := 0x00010000 }; s.aSbit.getLsbD 7 = false ∧ 0xFFFF < s.aVal.toInt) ∧
    (let s := { start with aVal := 0xFFFFFFFF }; s.aSbit.getLsbD 7 = false ∧ s.aVal.toInt < 0) ∧
    (let s := { start with aVal := 0x80000000, aSbit := 0x8F }; s.aSbit.getLsbD 7 = true ∧ 0xFFFF < s.aVal.toInt.natAbs) ∧
    (let s := { start with aVal := 0x00008000, aSbit := 0x8F };
      s.aSbit.getLsbD 7 = true ∧ s.aVal.toInt.natAbs.testBit (s.aSbit.extractLsb' 0 4).toNat = true) ∧
    (let s := { start with aVal := 0xFFFF8001, aSbit := 0x8F };
      s.aSbit.getLsbD 7 = true ∧ s.aVal.toInt.natAbs ≤ 0xFFFF ∧
      s.aVal.toInt.natAbs.testBit (s.aSbit.extractLsb' 0 4).toNat = false) := by decide

theorem witness_adapterLaws :
    (({ start with aIdx := 254 } : State).aIdx ≠ 255 ∧ ∃ t, exec .h2b { start with aIdx := 254 } = .next t) ∧
    smEncode (-100) 15 true = some 0x8064 ∧ smEncode 65535 0 false = some 0xFFFF :=
  ⟨⟨by decide, _, rfl⟩, by decide, by decide⟩

theorem witness_frame_commands :
    (∃ t, exec .cksum start = .next t) ∧ (∃ t, exec .srBegin start = .next t) ∧
    (∃ t, exec .srNextWord (packet 1 2 0 0 0) = .next t) ∧ ∃ t, exec .send start = .next t :=
  ⟨⟨_, rfl⟩, ⟨_, rfl⟩, ⟨_, rfl⟩, ⟨_, rfl⟩⟩

theorem witness_frame_storing :
    (∃ t, exec .encode { start with aInstr := 0x01 } = .next t) ∧ (∃ t, exec .h2b start = .next t) ∧
    (∃ t, exec .recv start = .next t) ∧ ∃ t, exec .decode start = .next t :=
  ⟨⟨_, rfl⟩, ⟨_, rfl⟩, ⟨_, rfl⟩, ⟨_, rfl⟩⟩

/-- A Read that a response answers and one that is refused; a request that expects no response, alone and under XACT;
XACT of a Read, and one refused. -/
theorem witness_frame_transactions :
    (∃ t, exec .read { operands 1 0x38 2 0 [] with draws := [frameA] } = .next t ∧ t.err = 0x00) ∧
    (∃ t, exec .read (operands 0xFE 0x38 2 0 []) = .next t ∧ t.txout = start.txout) ∧
    (∃ t, exec .write (operands 0xFE 0 0 0 []) = .next t ∧ t.txout ≠ start.txout) ∧
    (∃ t, exec .xact { operands 0xFE 0 0 0 [] with aInstr := 0x05 } = .next t ∧ t.txout ≠ start.txout) ∧
    (∃ t, exec .xact { operands 0 0 0 1 [7] with aInstr := 0x83 } = .next t ∧ t.txout ≠ start.txout) ∧
    (∃ t, exec .xact start = .next t ∧ t.txout = start.txout) ∧
    ∃ t, exec .xact { operands 1 0x38 2 0 [] with aInstr := 0x02, draws := [frameA] } = .next t ∧ t.err = 0x00 :=
  ⟨⟨_, rfl, by decide⟩, ⟨_, rfl, by decide⟩, ⟨_, rfl, by decide⟩, ⟨_, rfl, by decide⟩, ⟨_, rfl, by decide⟩,
    ⟨_, rfl, by decide⟩, ⟨_, rfl, by decide⟩⟩

theorem witness_frame_session :
    (∃ t, exec .syncread { session 1 2 [] 0 with aCnt := 1, draws := [frameA] } = .next t ∧ t.srRawlen = 8) ∧
    (∃ t, exec .srExtract (session 1 2 frameA 1) = .next t ∧ t.pv = true) ∧
    ∃ t, exec .srEnd (packet 1 2 0 0 0) = .next t ∧ t.sra = false :=
  ⟨⟨_, rfl, by decide⟩, ⟨_, rfl, by decide⟩, ⟨_, rfl, by decide⟩⟩

theorem witness_operandRegister : Reg.aVal.writable = true ∧ Reg.ctrl.writable = true := by decide

theorem witness_txout : ∃ t, exec .srXfer { session 1 2 [] 0 with aCnt := 1, draws := [[]] } = .next t ∧ t.txout ≠ [] :=
  ⟨_, rfl, by decide⟩

theorem witness_status :
    ∃ t, exec .decode (received frameA 1 2 2) = .next t ∧ t.status ≠ (received frameA 1 2 2).status :=
  ⟨_, rfl, by decide⟩

/-- An error of each kind that the second and third clauses name. -/
theorem witness_errors :
    (∃ t, exec .srNextByte start = .next t ∧ t.err = 0x07) ∧
    ∃ t, exec .h2b { start with aIdx := 255 } = .next t ∧ t.err ≠ 0x00 ∧ t.err ≠ 0x07 :=
  ⟨⟨_, rfl, by decide⟩, ⟨_, rfl, by decide⟩⟩

/-- A state with a session and a packet in which the invariants hold, and whose next step runs a command. -/
theorem witness_invariant :
    ({ packet 0x30 0x40 0 0 0 with inputs := [.transaction 0x14] } : State).Inv ∧
    ∃ t, step { packet 0x30 0x40 0 0 0 with inputs := [.transaction 0x14] } = .next t ∧ t.result = 0x4030 := by
  refine ⟨⟨?_, ?_, ?_, ?_, ?_⟩, _, rfl, by decide⟩
  · unfold State.BuffersCanonical; decide
  · unfold State.SessionInvariant; decide
  · unfold State.ReservedClear; decide
  · exact .inl (by decide)
  · intro b i hb hv
    cases b
    · exact absurd rfl hb
    · simp [State.inValidPart, packet, session, start, State.reset] at hv
    · simp [State.inValidPart, packet, session, start, State.reset] at hv
    · have h : i < 8 := by simpa [State.inValidPart, packet, session, frameB] using hv
      exact Option.isSome_iff_exists.mp
        ((by decide : ∀ j, j < 8 → ((packet 0x30 0x40 0 0 0).srbuf.load j).isSome = true) i h)
    · have h : i < 2 := by simpa [State.inValidPart, packet, session] using hv
      exact Option.isSome_iff_exists.mp
        ((by decide : ∀ j, j < 2 → ((packet 0x30 0x40 0 0 0).pkt.load j).isSome = true) i h)

end Sys2Proof.Tests
end

section
/-! The statements of 00_scope.md. -/

namespace Sys2Proof.Machine

/-- Settles O11: a read after a write, a read after a forget, and the canonical form are each a law of the buffers,
and none of them asks more than the statement gives. -/
theorem bufferWritesReadBack : Obligations.BufferWritesReadBack := by
  unfold Obligations.BufferWritesReadBack
  refine ⟨?readBack, ?forget, ?canonical⟩
  case readBack => exact Memory.load_write
  case forget => exact Memory.load_forget
  case canonical => exact fun _ _ _ _ hm hfit => Memory.wf_write hm hfit

end Sys2Proof.Machine
end

section
/-! The rules of the invariant, one for each operation on the state: where it holds before, it holds after. -/

namespace Sys2Proof.Machine

variable {s : State}

/-! ### Operations on the registers and the streams -/

theorem State.Inv.spend (h : s.Inv) (n : Nat) : (s.spend n).Inv :=
  ⟨h.canonical, h.session, h.reserved, h.error, h.specified⟩

theorem State.Inv.setResult (h : s.Inv) (v : Word) : (s.setResult v).Inv :=
  ⟨h.canonical, h.session, h.reserved, h.error, h.specified⟩

theorem State.Inv.succeed (h : s.Inv) : s.succeed.Inv :=
  ⟨h.canonical, h.session, h.reserved, State.errorLegal_of_ok rfl rfl, h.specified⟩

theorem State.Inv.raise (h : s.Inv) (c : Cause) : (s.raise c).Inv :=
  ⟨h.canonical, h.session, h.reserved, State.errorLegal_of_cause c rfl rfl, h.specified⟩

theorem State.Inv.fail (h : s.Inv) (c : Cause) : (s.fail c).Inv := (h.setResult 0).raise c

theorem State.Inv.exhaust (h : s.Inv) : s.exhaust.Inv := (h.setResult _).raise .exhausted

theorem State.Inv.txEmit (h : s.Inv) (f : List Byte) : (s.txEmit f).Inv :=
  ⟨h.canonical, h.session, h.reserved, h.error, h.specified⟩

theorem State.Inv.rxFlush (h : s.Inv) : s.rxFlush.Inv :=
  ⟨h.canonical, h.session, h.reserved, h.error, h.specified⟩

theorem State.Inv.rxRest (h : s.Inv) (m : Nat) : (s.rxRest m).Inv :=
  ⟨h.canonical, h.session, h.reserved, h.error, h.specified⟩

theorem State.Inv.arrive (h : s.Inv) (bytes : List Byte) : (s.arrive bytes).Inv :=
  ⟨h.canonical, h.session, h.reserved, h.error, h.specified⟩

theorem State.Inv.observe (h : s.Inv) (r : Response) : (s.observe r).Inv :=
  ⟨h.canonical, h.session, h.reserved, h.error, h.specified⟩

theorem State.Inv.observeNothing (h : s.Inv) : s.observeNothing.Inv :=
  ⟨h.canonical, h.session, h.reserved, h.error, h.specified⟩

theorem State.Inv.returnToHost (h : s.Inv) (v : Word) : (s.returnToHost v).Inv :=
  ⟨h.canonical, h.session, h.reserved, h.error, h.specified⟩

theorem State.Inv.takeInput (h : s.Inv) (rest : List Input) : State.Inv { s with inputs := rest } :=
  ⟨h.canonical, h.session, h.reserved, h.error, h.specified⟩

/-! ### Operations on the host, transmit and receive buffers -/

theorem State.Inv.setHbuf (h : s.Inv) {m : Memory} (hm : m.wf 256) : State.Inv { s with hbuf := m } :=
  ⟨⟨hm, h.canonical.2⟩, h.session, h.reserved, h.error, fun b i hb hi => by
    cases b
    case hbuf => exact absurd rfl hb
    all_goals exact h.specified _ i hb hi⟩

theorem State.Inv.writeHbuf (h : s.Inv) {i : Nat} {bytes : List Byte} (hi : i + bytes.length ≤ 256) :
    State.Inv { s with hbuf := s.hbuf.write i bytes } :=
  h.setHbuf (Memory.wf_write h.canonical.1 hi)

theorem toNat_length_of_le {f : List Byte} (hf : f.length ≤ 255) : (BitVec.ofNat 8 f.length).toNat = f.length := by
  rw [BitVec.toNat_ofNat, Nat.mod_eq_of_lt (by omega)]

theorem State.Inv.placeFrame (h : s.Inv) {f : List Byte} (hf : f.length ≤ 255) : (s.placeFrame f).Inv := by
  obtain ⟨⟨ch, ct, cr, -, -⟩, -, -, he, -, vr, -, -⟩ := (State.inv_iff s).1 h
  exact h.of_sessionKept (by simp [SessionKept]) he ch (Memory.wf_write ct (by simpa using hf)) cr
    (Memory.specifiedTo_write _ _ (toNat_length_of_le hf).le) vr

theorem State.Inv.placeReceived (h : s.Inv) {r : List Byte} (hr : r.length ≤ 255) : (s.placeReceived r).Inv := by
  obtain ⟨⟨ch, ct, cr, -, -⟩, -, -, he, vt, -, -, -⟩ := (State.inv_iff s).1 h
  exact h.of_sessionKept (by simp [SessionKept]) he ch ct (Memory.wf_write cr (by simpa using hr)) vt
    (Memory.specifiedTo_write _ _ (toNat_length_of_le hr).le)

theorem State.Inv.transmit (h : s.Inv) {f : List Byte} (hf : f.length ≤ 255) : (s.transmit f).Inv :=
  (h.placeFrame hf).rxFlush.txEmit f

/-! ### Operations on the session -/

/-- No packet without a session (R55). -/
theorem State.Inv.active_of_packet (h : s.Inv) (hp : s.pv = true) : s.sra = true := by
  by_contra ha
  obtain ⟨-, -, -, -, -, hpv⟩ := h.session.1 (by simpa using ha)
  simp [hp] at hpv

/-- Everything the invariant speaks of outside the session is as before. -/
def OutsideSessionKept (s t : State) : Prop :=
  t.hbuf = s.hbuf ∧ t.txbuf = s.txbuf ∧ t.rxbuf = s.rxbuf ∧ t.txlen = s.txlen ∧ t.rxlen = s.rxlen ∧
  t.ctrl = s.ctrl ∧ t.aSbit = s.aSbit ∧ t.err = s.err ∧ t.esub = s.esub

/-- An update of the session keeps the invariant when it keeps what the invariant says of the session. -/
theorem State.Inv.of_outsideSessionKept {t : State} (h : s.Inv) (hk : OutsideSessionKept s t)
    (hs : t.SessionInvariant) (craw : t.srbuf.wf t.srBufCap.toNat) (cpkt : t.pkt.wf 249)
    (vraw : t.srbuf.SpecifiedTo t.srRawlen.toNat) (vpkt : t.pv = true → t.pkt.SpecifiedTo t.srL.toNat) : t.Inv := by
  rw [State.inv_iff] at h ⊢
  obtain ⟨⟨ch, ct, cr, -, -⟩, -, hr, he, vt, vr, -, -⟩ := h
  obtain ⟨k1, k2, k3, k4, k5, k6, k7, k8, k9⟩ := hk
  refine ⟨⟨by rwa [k1], by rwa [k2], by rwa [k3], craw, cpkt⟩, hs, ?_, ?_, by rwa [k2, k4], by rwa [k3, k5],
    vraw, vpkt⟩
  · unfold State.ReservedClear at hr ⊢
    rwa [k6, k7]
  · unfold State.ErrorLegal at he ⊢
    rwa [k8, k9]

theorem State.Inv.dropPacket (h : s.Inv) : s.dropPacket.Inv := by
  obtain ⟨⟨-, -, -, craw, -⟩, ⟨hs0, hs1⟩, -, -, -, -, vraw, -⟩ := (State.inv_iff s).1 h
  refine h.of_outsideSessionKept (by simp [OutsideSessionKept]) ⟨fun ha => ?_, hs1⟩ craw (Memory.wf_nil _) vraw
    (by simp)
  obtain ⟨hn, hl, hz, hr, hc, -⟩ := hs0 ha
  exact ⟨hn, hl, hz, hr, hc, rfl⟩

theorem State.Inv.clearSession (h : s.Inv) : s.clearSession.Inv :=
  h.of_outsideSessionKept (by simp [OutsideSessionKept]) ⟨by simp, by simp⟩ (Memory.wf_nil _) (Memory.wf_nil _)
    (fun i hi => absurd hi (by simp)) (by simp)

theorem State.Inv.startSession (h : s.Inv) {n l : Byte} (hn : n ≠ 0) (hl : l.toNat ≤ 249)
    (hc : n.toNat * (l.toNat + 6) ≤ s.srBufCap.toNat) : (s.startSession n l).Inv := by
  obtain ⟨⟨-, -, -, craw, cpkt⟩, -⟩ := (State.inv_iff s).1 h
  have hn' : n.toNat ≠ 0 := fun e => hn (BitVec.eq_of_toNat_eq e)
  have hz : (BitVec.ofNat 16 (n.toNat * (l.toNat + 6))).toNat = n.toNat * (l.toNat + 6) := by
    have := s.srBufCap.isLt
    rw [BitVec.toNat_ofNat, Nat.mod_eq_of_lt (by omega)]
  refine h.of_outsideSessionKept (by simp [OutsideSessionKept]) ⟨by simp, fun _ => ?_⟩ craw cpkt
    (fun i hi => absurd hi (by simp)) (by simp)
  exact ⟨by simp; omega, hl, hz, hz.trans_le hc, by simp, by simp⟩

theorem State.Inv.setCursor (h : s.Inv) (ha : s.sra = true) {c : Byte} (hc : c.toNat ≤ s.srL.toNat) :
    State.Inv { s with srCur := c } := by
  obtain ⟨⟨-, -, -, craw, cpkt⟩, ⟨-, hs1⟩, -, -, -, -, vraw, vpkt⟩ := (State.inv_iff s).1 h
  obtain ⟨hn, hl, hz, hcap, hr, -⟩ := hs1 ha
  exact h.of_outsideSessionKept (by simp [OutsideSessionKept])
    ⟨fun hf => by simp [ha] at hf, fun _ => ⟨hn, hl, hz, hcap, hr, hc⟩⟩ craw cpkt vraw vpkt

/-- SR_EXTRACT puts the cursor back to 0 before it scans, and no packet is valid (R195). -/
theorem State.Inv.rewind (h : s.Inv) (ha : s.sra = true) : State.Inv { s with srCur := 0, pv := false } := by
  obtain ⟨⟨-, -, -, craw, cpkt⟩, -, -, -, -, -, vraw, -⟩ := (State.inv_iff s).1 h
  obtain ⟨hn, hl, hz, hcap, hr, -⟩ := h.session.2 ha
  exact h.of_outsideSessionKept (by simp [OutsideSessionKept])
    ⟨fun hf => by simp [ha] at hf, fun _ => ⟨hn, hl, hz, hcap, hr, by simp⟩⟩ craw cpkt vraw (by simp)

/-- SR_XFER stores at most `SR_SIZE` raw bytes (R192). -/
theorem State.Inv.storeRaw (h : s.Inv) (ha : s.sra = true) {r : List Byte} (hr : r.length ≤ s.srSize.toNat) :
    State.Inv { s with srbuf := s.srbuf.write 0 r, srRawlen := BitVec.ofNat 16 r.length } := by
  obtain ⟨⟨-, -, -, craw, cpkt⟩, -, -, -, -, -, -, vpkt⟩ := (State.inv_iff s).1 h
  obtain ⟨hn, hl, hz, hcap, -, hc⟩ := h.session.2 ha
  have hlen : (BitVec.ofNat 16 r.length).toNat = r.length := by
    have := s.srSize.isLt
    rw [BitVec.toNat_ofNat, Nat.mod_eq_of_lt (by omega)]
  have hfit : 0 + r.length ≤ s.srBufCap.toNat := by omega
  exact h.of_outsideSessionKept (by simp [OutsideSessionKept])
    ⟨fun hf => by simp [ha] at hf, fun _ => ⟨hn, hl, hz, hcap, hlen.trans_le hr, hc⟩⟩
    (Memory.wf_write craw hfit) cpkt (Memory.specifiedTo_write _ _ hlen.le) vpkt

/-- SR_EXTRACT stores the `SR_L` data bytes of the frame it found (R195). -/
theorem State.Inv.storePacket (h : s.Inv) (ha : s.sra = true) {data : List Byte} (hd : data.length = s.srL.toNat) :
    State.Inv { s with pkt := s.pkt.write 0 data, pv := true } := by
  obtain ⟨⟨-, -, -, craw, cpkt⟩, -, -, -, -, -, vraw, -⟩ := (State.inv_iff s).1 h
  have hs := h.session.2 ha
  exact h.of_outsideSessionKept (by simp [OutsideSessionKept]) ⟨fun hf => by simp [ha] at hf, fun _ => hs⟩ craw
    (Memory.wf_write cpkt (by omega)) vraw (fun _ => Memory.specifiedTo_write _ _ hd.ge)

/-! ### What the host writes -/

theorem State.Inv.writeHostByte (h : s.Inv) {i : Nat} (hi : i < 256) (v : Byte) : (s.writeHostByte i v).Inv :=
  h.writeHbuf (bytes := [v]) hi

/-- A value whose bits under a mask of a byte are 0 keeps them 0 as a byte. -/
theorem setWidth_and_eq_zero {v : Word} {m : Byte} (hm : v.toNat &&& m.toNat = 0) (hv : v.toNat < 2 ^ 8) :
    v.setWidth 8 &&& m = 0 := by
  apply BitVec.eq_of_toNat_eq
  rw [BitVec.toNat_and, BitVec.toNat_setWidth, Nat.mod_eq_of_lt hv]
  exact hm

/-- R103 refuses a write that sets a reserved bit, so an accepted one keeps the invariant. -/
theorem State.Inv.writeReg (h : s.Inv) {r : Reg} {v : Word} {cap : Nat} (hw : (HostTxn.regWrite r v).wf cap = true) :
    (s.writeReg r v).Inv := by
  simp only [HostTxn.wf, Bool.and_eq_true, decide_eq_true_eq] at hw
  obtain ⟨⟨-, hwidth⟩, hmask⟩ := hw
  obtain ⟨hctrl, hsbit⟩ := h.reserved
  cases r
  case ctrl =>
    exact ⟨h.canonical, h.session, ⟨setWidth_and_eq_zero hmask hwidth, hsbit⟩, h.error, h.specified⟩
  case aSbit =>
    exact ⟨h.canonical, h.session, ⟨hctrl, setWidth_and_eq_zero hmask hwidth⟩, h.error, h.specified⟩
  all_goals exact ⟨h.canonical, h.session, ⟨hctrl, hsbit⟩, h.error, h.specified⟩

theorem State.Inv.readReg (h : s.Inv) (r : Reg) : (s.readReg r).Inv := by
  unfold State.readReg
  split
  · exact (h.spend 1).returnToHost _
  · exact h.returnToHost _

theorem State.Inv.readBuf (h : s.Inv) (b : Buf) (i : Nat) : (s.readBuf b i).Inv := (h.spend 1).returnToHost _

end Sys2Proof.Machine
end

section
/-! Every instruction keeps the invariant: its operations are composed as its definition composes them. -/

namespace Sys2Proof.Machine

variable {s : State}

/-- The next state, where there is one, has a property. -/
def After (P : State → Prop) (o : Host.Outcome State Fault Refusal) : Prop := ∀ t, o = .next t → P t

theorem After.next {P : State → Prop} (h : P s) : After P (.next s) := fun _ e => by cases e; exact h

theorem State.Inv.after (h : s.Inv) : After State.Inv (.next s) := .next h

/-! ### The shared operations of the codec and the transactions -/

theorem State.Inv.failDecode (h : s.Inv) (n : Nat) (c : Cause) : (s.failDecode n c).Inv := by
  have hm : (if c.spoilsData then s.hbuf.forget n else s.hbuf).wf 256 := by
    split
    · exact Memory.wf_forget h.canonical.1 n
    · exact h.canonical.1
  exact (h.observeNothing.setHbuf hm).fail c

theorem State.Inv.acceptResponse (h : s.Inv) (n : Nat) {r : Response} (hr : r.data.length ≤ 256) :
    (s.acceptResponse n r).Inv :=
  (((h.observe r).writeHbuf (by omega)).setResult _).succeed

theorem State.Inv.decodeReceived (h : s.Inv) (a : Byte) (n : Nat) (i : Byte) : (s.decodeReceived a n i).Inv := by
  have hs := h.spend s.rxlen.toNat
  unfold State.decodeReceived
  dsimp only
  rcases checkResponse_eq (s.rxbuf.read s.drawCount 0 s.rxlen.toNat) a n i with ⟨hf, hc⟩ | ⟨c, -, hc, -⟩
  · rw [hc]
    have hn := (length_of_responseFailure hf).1
    exact hs.acceptResponse n ((List.length_take_le _ _).trans (by omega))
  · rw [hc]
    exact hs.failDecode n c

theorem requestFailure_of_ok {op : WireOp} {q : Byte × List Byte} (hq : request op s = .ok q) :
    requestFailure op s = none := by
  cases hf : requestFailure op s with
  | none => rfl
  | some sub =>
    obtain ⟨c, hc, -⟩ := request_error hf
    rw [hc] at hq
    cases hq

/-- A request that passes its checks, and the frame built of it, which fits into `TXBUF`. -/
theorem request_of_ok {op : WireOp} {a : Byte} {p : List Byte} (hq : request op s = .ok (a, p)) :
    a = requestAddress op s ∧ (buildFrame a op.code p).length ≤ 255 := by
  obtain ⟨p', hp, -, hl⟩ := request_ok (requestFailure_of_ok hq)
  rw [hp] at hq
  cases hq
  exact ⟨rfl, by simp; omega⟩

theorem State.Inv.encodeRequest (h : s.Inv) (op : WireOp) : (s.encodeRequest op).Inv := by
  unfold State.encodeRequest
  split
  next c _ => exact h.fail c
  next a p hq => exact (((h.spend _).placeFrame (request_of_ok hq).2).setResult _).succeed

theorem State.Inv.endSilent (h : s.Inv) : s.endSilent.Inv := (h.observeNothing.setResult 0).succeed

theorem State.Inv.receiveResponse (h : s.Inv) (a : Byte) {n : Nat} (hn : n ≤ 249) (i : Byte) :
    (s.receiveResponse a n i).Inv :=
  ((h.rxRest _).placeReceived (by simp [State.rxTaken]; omega)).decodeReceived a n i

theorem State.Inv.transact (h : s.Inv) (op : WireOp) : (s.transact op).Inv := by
  unfold State.transact
  split
  · exact h.observeNothing.fail _
  next ho =>
  split
  next c _ => exact h.observeNothing.fail c
  next a p hq =>
    obtain ⟨rfl, hlen⟩ := request_of_ok hq
    have hsent := (h.spend p.length).transmit hlen
    rw [expect_eq op s ho]
    dsimp only
    cases hr : responseLength op s with
    | none => exact hsent.endSilent
    | some n => exact hsent.receiveResponse _ (transact_answered (requestFailure_of_ok hq) hr).1 _

theorem State.Inv.syncReadTransfer (h : s.Inv) : s.syncReadTransfer.Inv := by
  unfold State.syncReadTransfer
  dsimp only
  split_ifs with ha h0 h247
  · exact h.fail _
  · exact h.fail _
  · exact h.fail _
  · have hlen : (buildFrame broadcast WireOp.syncread.code (s.aReg :: s.srL :: s.hostBytes s.aCnt.toNat)).length ≤
        255 := by
      simp [State.hostBytes]
      omega
    have hsent := ((h.spend s.aCnt.toNat).transmit hlen).rxRest s.srSize.toNat
    exact ((hsent.storeRaw (by simpa using ha) (by simp [State.rxTaken])).setResult _).succeed

/-! ### The instructions that branch -/

theorem State.Inv.encode (h : s.Inv) : After State.Inv (execEncode s) := by
  unfold execEncode
  split
  · exact (h.fail _).after
  next op _ => exact (h.encodeRequest op).after

theorem State.Inv.recv (h : s.Inv) : After State.Inv (execRecv s) := by
  have hr : (s.rxTaken s.aLen.toNat).length ≤ 255 := by
    simp [State.rxTaken]
    omega
  exact ((((h.rxRest _).placeReceived hr).setResult _).succeed).after

theorem State.Inv.xact (h : s.Inv) : After State.Inv (execXact s) := by
  unfold execXact
  split
  · exact (h.observeNothing.fail _).after
  next op _ => exact (h.transact op).after

theorem State.Inv.srBegin (h : s.Inv) : After State.Inv (execSrBegin s) := by
  unfold execSrBegin
  dsimp only
  split_ifs with ha h0 h249 hcap
  · exact (h.fail _).after
  · exact (h.fail _).after
  · exact (h.fail _).after
  · exact (h.fail _).after
  · exact (((h.startSession h0 (by omega) (by omega)).setResult _).succeed).after

theorem State.Inv.failExtract (h : s.Inv) (c : Cause) : (s.failExtract c).Inv := h.dropPacket.observeNothing.fail c

theorem State.Inv.srExtract (h : s.Inv) : After State.Inv (execSrExtract s) := by
  unfold execSrExtract
  dsimp only
  split
  · exact (h.failExtract _).after
  next ha =>
  have ha : s.sra = true := by simpa using ha
  have hrewound := (h.spend s.srRawlen.toNat).rewind ha
  split
  next hscan =>
    exact ((((hrewound.observe _).storePacket ha (length_of_scanAt_found hscan)).setResult _).succeed).after
  · exact (hrewound.failExtract _).after
  · exact (hrewound.failExtract _).after
  · exact (hrewound.failExtract _).after

/-- A decoder that takes bytes of the packet leaves the cursor inside it. -/
theorem State.Inv.advance (h : s.Inv) (hp : s.pv = true) {k : Nat} (hk : s.srCur.toNat + k ≤ s.srL.toNat) :
    State.Inv { s.spend k with srCur := BitVec.ofNat 8 (s.srCur.toNat + k) } :=
  (h.spend k).setCursor (h.active_of_packet hp) (by
    rw [BitVec.toNat_ofNat]
    exact (Nat.mod_le _ _).trans hk)

theorem State.Inv.srNextByte (h : s.Inv) : After State.Inv (execSrNextByte s) := by
  unfold execSrNextByte
  dsimp only
  split_ifs with hend
  · exact h.exhaust.after
  · rw [not_or] at hend
    exact (((h.advance (by simpa using hend.1) (by omega)).setResult _).succeed).after

theorem State.Inv.srNextWord (h : s.Inv) : After State.Inv (execSrNextWord s) := by
  unfold execSrNextWord
  dsimp only
  split_ifs with hend
  · exact h.exhaust.after
  · rw [not_or] at hend
    exact (((h.advance (by simpa using hend.1) (by omega)).setResult _).succeed).after

theorem State.Inv.srEnd (h : s.Inv) : After State.Inv (execSrEnd s) := by
  unfold execSrEnd
  split
  · exact ((h.clearSession.setResult 0).succeed).after
  · exact ((h.setResult 0).succeed).after

theorem State.Inv.h2b (h : s.Inv) : After State.Inv (execH2b s) := by
  unfold execH2b
  dsimp only
  split_ifs with hi
  · exact (h.fail _).after
  · exact (((h.writeHbuf (by simp; omega)).setResult 2).succeed).after

theorem State.Inv.b2h (h : s.Inv) : After State.Inv (execB2h s) := by
  unfold execB2h
  dsimp only
  split_ifs
  · exact (h.fail _).after
  · exact (((h.spend 2).setResult _).succeed).after

theorem State.Inv.smEnc (h : s.Inv) : After State.Inv (execSmEnc s) := by
  unfold execSmEnc
  split
  · exact (h.fail _).after
  · exact ((h.setResult _).succeed).after

theorem State.Inv.exec (h : s.Inv) (i : Instr) : After State.Inv (exec i s) := by
  cases i with
  | ping => exact (h.transact .ping).after
  | read => exact (h.transact .read).after
  | write => exact (h.transact .write).after
  | bwrite => exact (h.transact .bwrite).after
  | btrigger => exact (h.transact .btrigger).after
  | syncread => exact h.syncReadTransfer.after
  | syncwrite => exact (h.transact .syncwrite).after
  | nop => exact h.succeed.after
  | cksum => exact (((h.spend _).setResult _).succeed).after
  | encode => exact h.encode
  | decode => exact (h.decodeReceived _ _ _).after
  | send => exact ((((h.spend _).txEmit _).setResult _).succeed).after
  | flushRx => exact ((h.rxFlush.setResult 0).succeed).after
  | recv => exact h.recv
  | xact => exact h.xact
  | srBegin => exact h.srBegin
  | srXfer => exact h.syncReadTransfer.after
  | srExtract => exact h.srExtract
  | srNextByte => exact h.srNextByte
  | srNextWord => exact h.srNextWord
  | srEnd => exact h.srEnd
  | h2b => exact h.h2b
  | b2h => exact h.b2h
  | smDec => exact ((h.setResult _).succeed).after
  | smEnc => exact h.smEnc

end Sys2Proof.Machine
end

section
/-! Every step keeps the invariant: a host transaction that R103 accepts, an arrival, and a wait. -/

namespace Sys2Proof

theorem HostTxn.wf_of_decodeRegWrite {cap index value : Nat} {t : HostTxn} (hv : value < 2 ^ 32)
    (h : decodeRegWrite index value = .ok t) : t.wf cap = true := by
  unfold decodeRegWrite at h
  split at h
  · cases h
  · split_ifs at h with hwritable hwidth hmask
    cases h
    have e : (BitVec.ofNat 32 value).toNat = value := by rw [BitVec.toNat_ofNat, Nat.mod_eq_of_lt hv]
    simp only [HostTxn.wf, Bool.and_eq_true, decide_eq_true_eq, e]
    exact ⟨⟨by simpa using hwritable, by omega⟩, by simpa using hmask⟩

theorem HostTxn.wf_of_decodeRegRead {cap index value : Nat} {t : HostTxn}
    (h : decodeRegRead index value = .ok t) : t.wf cap = true := by
  unfold decodeRegRead at h
  split at h
  · cases h
  · split_ifs at h
    cases h
    rfl

theorem HostTxn.wf_of_decodeBufWrite {cap index value : Nat} {b : Buf} {t : HostTxn} (hi : index < 2 ^ 16)
    (h : decodeBufWrite cap b index value = .ok t) : t.wf cap = true := by
  unfold decodeBufWrite at h
  split_ifs at h with hb hsize hbyte
  cases h
  obtain rfl : b = .hbuf := not_not.1 hb
  simp only [HostTxn.wf, decide_eq_true_eq, BitVec.toNat_ofNat, Nat.mod_eq_of_lt hi]
  omega

theorem HostTxn.wf_of_decodeBufRead {cap index value : Nat} {b : Buf} {t : HostTxn} (hi : index < 2 ^ 16)
    (h : decodeBufRead cap b index value = .ok t) : t.wf cap = true := by
  unfold decodeBufRead at h
  split_ifs at h with hsize hvalue
  cases h
  simp only [HostTxn.wf, decide_eq_true_eq, BitVec.toNat_ofNat, Nat.mod_eq_of_lt hi]
  omega

theorem HostTxn.wf_of_decodeFields {cap kind space reserved index value : Nat} {t : HostTxn} (hi : index < 2 ^ 16)
    (hv : value < 2 ^ 32) (h : decodeFields cap kind space reserved index value = .ok t) : t.wf cap = true := by
  unfold decodeFields at h
  split at h
  · cases h
  split at h
  · cases h
  · split_ifs at h
    · exact wf_of_decodeRegWrite hv h
    · exact wf_of_decodeRegRead h
  · split_ifs at h
    · exact wf_of_decodeBufWrite hi h
    · exact wf_of_decodeBufRead hi h

/-- The decoder answers only what R103 accepts. -/
theorem HostTxn.wf_of_decodeWord {cap : Nat} {w : HostWord} {t : HostTxn} (h : decodeWord cap w = .ok t) :
    t.wf cap = true :=
  wf_of_decodeFields (Nat.mod_lt _ (by decide)) (Nat.mod_lt _ (by decide)) h

end Sys2Proof

namespace Sys2Proof.Machine

variable {s : State}

/-- What a step can be: a wait, an accepted host transaction, or an arrival. -/
theorem step_cases {t : State} (h : step s = .next t) :
    t = s ∨
    (∃ txn rest, txn.wf s.srBufCap.toNat = true ∧ runTxn txn { s with inputs := rest } = .next t) ∨
    ∃ bytes rest, t = State.arrive bytes { s with inputs := rest } := by
  cases hin : s.inputs with
  | nil =>
    simp only [step, runInput, hin] at h
    cases h
    exact .inl rfl
  | cons input rest =>
    cases input with
    | transaction w =>
      cases hd : decodeWord s.srBufCap.toNat w with
      | error why =>
        rw [step_refused hin hd] at h
        cases h
      | ok txn => exact .inr (.inl ⟨txn, rest, HostTxn.wf_of_decodeWord hd, (step_accepted hin hd).symm.trans h⟩)
    | arrival bytes =>
      simp only [step, runInput, hin] at h
      cases h
      exact .inr (.inr ⟨bytes, rest, rfl⟩)

theorem State.Inv.runCommand (h : s.Inv) (c : Byte) : After State.Inv (runCommand c s) := by
  unfold Machine.runCommand
  split
  next i _ => exact h.exec i
  · exact (h.raise .illegalCmd).after

theorem State.Inv.runTxn (h : s.Inv) {txn : HostTxn} (hw : txn.wf s.srBufCap.toNat = true) :
    After State.Inv (runTxn txn s) := by
  cases txn with
  | regWrite r v =>
    unfold Machine.runTxn
    dsimp only
    split
    next hr =>
      subst hr
      exact (h.writeReg hw).runCommand _
    · exact (h.writeReg hw).after
  | regRead r => exact (h.readReg r).after
  | bufWrite i v => exact (h.writeHostByte (of_decide_eq_true hw) v).after
  | bufRead b i => exact (h.readBuf b i.toNat).after

/-- Settles O59: the invariant has one rule for each operation, every instruction is composed of those, and a step is a
wait, an arrival, or a host transaction that R103 accepts. -/
theorem invariantKeptByEveryStep : Obligations.InvariantKeptByEveryStep := by
  unfold Obligations.InvariantKeptByEveryStep
  intro s t h hstep
  rcases step_cases hstep with rfl | ⟨txn, rest, hw, hrun⟩ | ⟨bytes, rest, rfl⟩
  · exact h
  · exact (h.takeInput rest).runTxn hw t hrun
  · exact (h.takeInput rest).arrive bytes

/-- Settles O58: without a session and with every buffer empty, nothing is left to check. -/
theorem invariantAtReset : Obligations.InvariantAtReset := by
  unfold Obligations.InvariantAtReset
  refine ⟨?canonical, ?session, ?reserved, ?error, ?specified⟩
  case canonical => exact ⟨Memory.wf_nil _, Memory.wf_nil _, Memory.wf_nil _, Memory.wf_nil _, Memory.wf_nil _⟩
  case session => exact ⟨fun _ => ⟨rfl, rfl, rfl, rfl, rfl, rfl⟩, fun ha => by cases ha⟩
  case reserved => exact ⟨by decide, by decide⟩
  case error => exact State.errorLegal_of_ok rfl rfl
  case specified =>
    intro b i hb hi
    cases b <;> simp [State.inValidPart, State.reset] at hi hb

/-- Settles O8: both are the rule of the step for what comes next from outside. -/
theorem arrivalsAppendAndTheBlockWaits : Obligations.ArrivalsAppendAndTheBlockWaits := by
  unfold Obligations.ArrivalsAppendAndTheBlockWaits
  exact ⟨fun s bytes rest h => by simp only [step, runInput, h, State.arrive],
    fun s h => by simp only [step, runInput, h]⟩

end Sys2Proof.Machine
end

section
/-! What an instruction can do to the operand registers, to `TXOUT` and to the status, said once for every instruction;
that none of them depends on `TXOUT`; and the three statements about them. -/

namespace Sys2Proof.Machine

variable {i : Instr} {s t : State}

/-! ### The effect of an instruction -/

/-- The registers that the host may write (R23, R24, R30 to R38). -/
def State.operands (s : State) : Byte × Byte × Byte × Byte × Byte × Byte × Byte × Byte × Byte × Half × Word :=
  (s.cmd, s.ctrl, s.aAddr, s.aInstr, s.aReg, s.aLen, s.aCnt, s.aIdx, s.aSbit, s.aWord, s.aVal)

theorem State.reg_eq_of_operands (h : t.operands = s.operands) {r : Reg} (hr : r.writable = true) :
    t.reg r = s.reg r := by
  simp only [State.operands, Prod.mk.injEq] at h
  cases r <;> simp [Reg.writable] at hr <;> simp only [State.reg, h]

/-- `TXOUT` grew by the frame that stands in `TXBUF[0..TXLEN-1]` (R52). -/
def Emitted (s t : State) : Prop := ∃ f, t.txout = s.txout ++ f ∧ t.txbuf.Reads 0 t.txlen.toNat f

/-- The status and the address of a response are as before. -/
def StatusKept (s t : State) : Prop := t.status = s.status ∧ t.rspAddr = s.rspAddr

/-- A status was taken, and the instruction succeeded (R27, R29). -/
def Observed (t : State) : Prop := t.sv = true ∧ t.err = 0x00 ∧ t.esub = 0x00

/-- The instructions that transmit: SEND, the transactions and SR_XFER (R52). -/
def transmitters : List Instr :=
  [.send, .xact, .srXfer, .ping, .read, .write, .bwrite, .btrigger, .syncread, .syncwrite]

/-- The instructions that may take a status (R27). -/
def observers : List Instr := [.decode, .srExtract, .xact, .ping, .read, .write, .bwrite, .btrigger]

/-- What an instruction leaves of the operand registers, of `TXOUT` and of the status. -/
structure Effect (i : Instr) (s t : State) : Prop where
  operands : t.operands = s.operands
  txout : t.txout = s.txout ∨ i ∈ transmitters ∧ Emitted s t
  status : StatusKept s t ∨ i ∈ observers ∧ Observed t

/-- An update that neither transmits nor takes a status; the field laws of its operations show it. -/
theorem Effect.quiet (h : t.operands = s.operands := by simp [State.operands])
    (ht : t.txout = s.txout := by simp) (hs : StatusKept s t := by simp [StatusKept]) : Effect i s t :=
  ⟨h, .inl ht, .inl hs⟩

/-- The bytes written from index 0 on are a reading of that part. -/
theorem Memory.reads_write (m : Memory) {f : List Byte} {n : Nat} (hn : n = f.length) : (m.write 0 f).Reads 0 n f :=
  ⟨hn.symm, fun j v hj hv => by
    rwa [Nat.zero_add, Memory.holds_write m f j (hn ▸ hj)] at hv⟩

theorem decodeReceived_effect (hi : i ∈ observers) (a : Byte) (n : Nat) (c : Byte) :
    Effect i s (s.decodeReceived a n c) := by
  rw [decodeReceived_eq]
  rcases decodeEffect_cases (s.rxbuf.read s.drawCount 0 s.rxlen.toNat) a n c s with ⟨-, e⟩ | ⟨_, -, e⟩
  · rw [e]
    exact ⟨rfl, .inl rfl, .inr ⟨hi, rfl, rfl, rfl⟩⟩
  · rw [e]
    exact .quiet

theorem encodeRequest_effect (op : WireOp) : Effect i s (s.encodeRequest op) := by
  cases hf : requestFailure op s with
  | some sub =>
    rw [encodeRequest_error hf]
    exact .quiet
  | none =>
    obtain ⟨p, -, -, e⟩ := encodeRequest_ok hf
    rw [e]
    exact .quiet

/-- A transaction transmits once its request passes the checks, and takes a status only from a response. -/
theorem transact_effect {op : WireOp} (ho : op ≠ .syncread) (hi : i ∈ transmitters)
    (hr : responseLength op s ≠ none → i ∈ observers) : Effect i s (s.transact op) := by
  have hlen : ∀ (a c : Byte) (p : List Byte), p.length ≤ 249 →
      (BitVec.ofNat 8 (p.length + 6)).toNat = (wireFrame a c p).length := fun a c p hp => by
    rw [length_wireFrame, BitVec.toNat_ofNat, Nat.mod_eq_of_lt (by omega)]
  rcases transact_cases s ho with ⟨sub, -, e⟩ | ⟨p, k, -, hp, ⟨-, e⟩ | ⟨n, arrived, r, hn, -, -, h⟩⟩
  · rw [e]
    exact .quiet
  · rw [e]
    exact ⟨rfl, .inr ⟨hi, _, rfl, Memory.reads_write _ (hlen _ _ p hp)⟩, .inl ⟨rfl, rfl⟩⟩
  · have hobs : i ∈ observers := hr (by simp [hn])
    rcases h with ⟨-, -, e⟩ | ⟨c, -, e⟩
    · rw [e]
      exact ⟨rfl, .inr ⟨hi, _, rfl, Memory.reads_write _ (hlen _ _ p hp)⟩, .inr ⟨hobs, rfl, rfl, rfl⟩⟩
    · rw [e]
      exact ⟨rfl, .inr ⟨hi, _, rfl, Memory.reads_write _ (hlen _ _ p hp)⟩, .inl ⟨rfl, rfl⟩⟩

theorem syncReadTransfer_effect (hi : i ∈ transmitters) : Effect i s s.syncReadTransfer := by
  rcases syncReadTransfer_cases s with ⟨c, -, e⟩ | ⟨-, hcnt, ids, arrived, k, hids, e⟩
  · rw [e]
    exact .quiet
  · rw [e]
    refine ⟨rfl, .inr ⟨hi, _, rfl, Memory.reads_write _ ?_⟩, .inl ⟨rfl, rfl⟩⟩
    simp only [length_wireFrame, List.length_cons, hids.1, BitVec.toNat_ofNat]
    omega

theorem send_effect : After (Effect .send s) (execSend s) :=
  .next ⟨by simp [State.operands],
    .inr ⟨by decide, s.txbuf.read s.drawCount 0 s.txlen.toNat, by simp, by simpa using Memory.reads_read _ _ _ _⟩,
    .inl (by simp [StatusKept])⟩

theorem xact_effect : After (Effect .xact s) (exec .xact s) := by
  rcases exec_xact_cases s with e | ⟨op, ho, -, e⟩
  · rw [e]
    exact .next .quiet
  · rw [e]
    exact .next (transact_effect ho (by decide) (fun _ => by decide))

theorem srExtract_effect : After (Effect .srExtract s) (execSrExtract s) := by
  unfold execSrExtract
  dsimp only
  split
  · exact .next .quiet
  split
  · exact .next ⟨rfl, .inl rfl, .inr ⟨by decide, rfl, rfl, rfl⟩⟩
  · exact .next .quiet
  · exact .next .quiet
  · exact .next .quiet

theorem encode_effect : After (Effect .encode s) (execEncode s) := by
  unfold execEncode
  split
  · exact .next .quiet
  · exact .next (encodeRequest_effect _)

theorem smEnc_effect : After (Effect .smEnc s) (execSmEnc s) := by
  unfold execSmEnc
  split <;> exact .next .quiet

/-- Every instruction keeps the operand registers, transmits only what it leaves in `TXBUF`, and takes a status only
when it succeeds. -/
theorem exec_effect (i : Instr) (s : State) : After (Effect i s) (exec i s) := by
  cases i with
  | ping | read | write | bwrite | btrigger =>
    exact .next (transact_effect (by decide) (by decide) (fun _ => by decide))
  | syncwrite => exact .next (transact_effect (by decide) (by decide) (fun hr => absurd rfl hr))
  | syncread | srXfer => exact .next (syncReadTransfer_effect (by decide))
  | send => exact send_effect
  | xact => exact xact_effect
  | decode => exact .next (decodeReceived_effect (by decide) _ _ _)
  | srExtract => exact srExtract_effect
  | encode => exact encode_effect
  | smEnc => exact smEnc_effect
  | nop | cksum | flushRx | recv | smDec => exact .next .quiet
  | srBegin | srNextByte | srNextWord | srEnd | h2b | b2h =>
    dsimp only [exec, execSrBegin, execSrNextByte, execSrNextWord, execSrEnd, execH2b, execB2h]
    split_ifs <;> exact .next .quiet

/-! ### `TXOUT` is not read -/

/-- The two states differ at most in `TXOUT`. -/
def SameButTxout (t u : State) : Prop := { u with txout := t.txout } = t

theorem request_txout (op : WireOp) (s : State) (x : List Byte) : request op { s with txout := x } = request op s := by
  cases op <;> rfl

theorem decodeReceived_sameButTxout (s : State) (x : List Byte) (a : Byte) (n : Nat) (c : Byte) :
    SameButTxout (s.decodeReceived a n c) (State.decodeReceived a n c { s with txout := x }) := by
  unfold State.decodeReceived
  dsimp only
  generalize checkResponse _ a n c = checked
  cases checked <;> rfl

theorem encodeRequest_sameButTxout (s : State) (x : List Byte) (op : WireOp) :
    SameButTxout (s.encodeRequest op) (State.encodeRequest op { s with txout := x }) := by
  unfold State.encodeRequest
  rw [request_txout op s x]
  cases request op s <;> rfl

theorem transact_sameButTxout (s : State) (x : List Byte) (op : WireOp) :
    SameButTxout (s.transact op) (State.transact op { s with txout := x }) := by
  unfold State.transact
  rw [request_txout op s x]
  split
  · rfl
  cases request op s with
  | error c => rfl
  | ok q =>
    obtain ⟨a, p⟩ := q
    dsimp only
    cases expect op a s.aLen.toNat with
    | nothing => rfl
    | session => rfl
    | response n => exact decodeReceived_sameButTxout _ (x ++ buildFrame a op.code p) _ _ _

theorem syncReadTransfer_sameButTxout (s : State) (x : List Byte) :
    SameButTxout s.syncReadTransfer (State.syncReadTransfer { s with txout := x }) := by
  unfold State.syncReadTransfer
  dsimp only
  split_ifs <;> rfl

/-- The instruction ends in the same state, but for `TXOUT`, when it starts from another `TXOUT`. -/
def BlindToTxout (i : Instr) (s : State) (x : List Byte) : Prop :=
  After (fun t => ∃ u, exec i { s with txout := x } = .next u ∧ SameButTxout t u) (exec i s)

theorem SameButTxout.blind {x : List Byte} {u : State} (h : SameButTxout t u) (ht : exec i s = .next t := by rfl)
    (hu : exec i { s with txout := x } = .next u := by rfl) : BlindToTxout i s x := by
  unfold BlindToTxout
  rw [ht]
  exact .next ⟨u, hu, h⟩

theorem exec_blindToTxout (i : Instr) (s : State) (x : List Byte) : BlindToTxout i s x := by
  cases i with
  | ping => exact (transact_sameButTxout s x .ping).blind
  | read => exact (transact_sameButTxout s x .read).blind
  | write => exact (transact_sameButTxout s x .write).blind
  | bwrite => exact (transact_sameButTxout s x .bwrite).blind
  | btrigger => exact (transact_sameButTxout s x .btrigger).blind
  | syncwrite => exact (transact_sameButTxout s x .syncwrite).blind
  | syncread | srXfer => exact (syncReadTransfer_sameButTxout s x).blind
  | decode => exact (decodeReceived_sameButTxout s x _ _ _).blind
  | nop | cksum | send | flushRx | recv | smDec => exact .next ⟨_, rfl, rfl⟩
  | xact =>
    unfold BlindToTxout
    dsimp only [exec, execXact]
    cases WireOp.ofCode? s.aInstr with
    | none => exact .next ⟨_, rfl, rfl⟩
    | some op => exact .next ⟨_, rfl, transact_sameButTxout s x op⟩
  | encode =>
    unfold BlindToTxout
    dsimp only [exec, execEncode]
    cases WireOp.ofCode? s.aInstr with
    | none => exact .next ⟨_, rfl, rfl⟩
    | some op => exact .next ⟨_, rfl, encodeRequest_sameButTxout s x op⟩
  | smEnc =>
    unfold BlindToTxout
    dsimp only [exec, execSmEnc, State.signedOperand, State.signBit, State.signEnable]
    split <;> exact .next ⟨_, rfl, rfl⟩
  | srExtract =>
    unfold BlindToTxout
    dsimp only [exec, execSrExtract]
    split_ifs
    · exact .next ⟨_, rfl, rfl⟩
    · cases scan s.aAddr s.srL.toNat (s.srbuf.read s.drawCount 0 s.srRawlen.toNat) <;> exact .next ⟨_, rfl, rfl⟩
  | srBegin | srNextByte | srNextWord | srEnd | h2b | b2h =>
    unfold BlindToTxout
    dsimp only [exec, execSrBegin, execSrNextByte, execSrNextWord, execSrEnd, execH2b, execB2h]
    split_ifs <;> exact .next ⟨_, rfl, rfl⟩

/-! ### The statements -/

/-- Settles O53: every instruction has a next state, and its effect leaves the operand registers. -/
theorem operandsAreWrittenOnlyByTheHost : Obligations.OperandsAreWrittenOnlyByTheHost := by
  unfold Obligations.OperandsAreWrittenOnlyByTheHost
  intro i s
  obtain ⟨t, ht⟩ := exec_next i s
  exact ⟨t, ht, fun _ hr => State.reg_eq_of_operands (exec_effect i s t ht).operands hr⟩

/-- Settles O54: what each instruction emits is part of its effect, and no operation reads `TXOUT`. -/
theorem txoutOnlyGrowsByFrames : Obligations.TxoutOnlyGrowsByFrames := by
  unfold Obligations.TxoutOnlyGrowsByFrames
  exact ⟨fun i s t ht => (exec_effect i s t ht).txout, fun i s t x ht => exec_blindToTxout i s x t ht, rfl⟩

/-- Settles O55: an instruction whose effect does not keep the status has taken one, and succeeded. -/
theorem statusIsWrittenOnlyOnSuccess : Obligations.StatusIsWrittenOnlyOnSuccess := by
  unfold Obligations.StatusIsWrittenOnlyOnSuccess
  intro i s t ht hchanged
  rcases (exec_effect i s t ht).status with ⟨hstatus, haddr⟩ | hobserved
  · exact absurd hchanged (by simp [hstatus, haddr])
  · exact hobserved

end Sys2Proof.Machine
end

section
/-! What a host access stores and keeps, what it reads, and that the address `FF` is no address the scan can find. -/

namespace Sys2Proof.Machine

variable {s : State}

/-! ### Host writes and reads -/

theorem buffersKept_writeReg (s : State) (r : Reg) (v : Word) : BuffersKept s (s.writeReg r v) := by
  intro b j
  cases r <;> rfl

theorem streamsKept_writeReg (s : State) (r : Reg) (v : Word) : StreamsKept s (s.writeReg r v) := by
  cases r <;> exact ⟨rfl, rfl, rfl⟩

theorem outsideKept_writeReg (s : State) (r : Reg) (v : Word) : OutsideKept s (s.writeReg r v) := by
  cases r <;> exact ⟨rfl, rfl, rfl⟩

theorem byteAt_writeHostByte (s : State) (i : Nat) (v : Byte) : (s.writeHostByte i v).byteAt .hbuf i = some v := by
  simp [State.byteAt, State.inValidPart, State.buf, Memory.load_write]

theorem load_writeHostByte_of_ne {b : Buf} {i j : Nat} (v : Byte) (h : (b, j) ≠ (.hbuf, i)) :
    ((s.writeHostByte i v).buf b).load j = (s.buf b).load j := by
  cases b
  case hbuf =>
    have hj : j ≠ i := fun e => h (by rw [e])
    simp only [State.buf, State.writeHostByte_fields, Memory.load_write, List.length_singleton]
    rw [if_neg (by omega)]
  all_goals rfl

theorem regsKept_writeHostByte (s : State) (i : Nat) (v : Byte) : RegsKept [] s (s.writeHostByte i v) := fun _ _ => rfl

/-- A register read returns the register, but for `STATUS` while `SV = 0` (R27). -/
theorem readReg_eq (s : State) (r : Reg) : ∃ v k, (r ≠ .status ∨ s.sv = true → v = s.reg r) ∧
    s.readReg r = { s with hostReads := s.hostReads ++ [v], drawCount := k } := by
  by_cases h : r = .status ∧ s.sv = false
  · exact ⟨_, _, fun hv => by simp [h] at hv, if_pos h⟩
  · exact ⟨_, _, fun _ => rfl, if_neg h⟩

/-- A buffer read returns the byte where it is specified (R104). -/
theorem readBuf_eq (s : State) (b : Buf) (i : Nat) : ∃ (v : Byte) (k : Nat), (∀ x, s.byteAt b i = some x → v = x) ∧
    s.readBuf b i = { s with hostReads := s.hostReads ++ [v.setWidth 32], drawCount := k } :=
  ⟨_, _, fun x hx => by rw [hx]; rfl, rfl⟩

/-- Settles O9: the step runs the decoded transaction, and each of the four kinds has its rule above. -/
theorem hostAccessesOnlyStoreOrRead : Obligations.HostAccessesOnlyStoreOrRead := by
  unfold Obligations.HostAccessesOnlyStoreOrRead
  intro s w rest t hin hdec
  have hstep := step_accepted hin hdec
  cases t with
  | regWrite r v =>
    intro hr
    obtain ⟨hcap, hreads, hinputs⟩ := outsideKept_writeReg { s with inputs := rest } r v
    exact ⟨_, hstep.trans (if_neg hr), reg_writeReg (HostTxn.wf_of_decodeWord hdec), regsKept_writeReg _ r v,
      buffersKept_writeReg _ r v, streamsKept_writeReg _ r v, hcap, hreads, hinputs⟩
  | regRead r =>
    obtain ⟨v, k, hv, e⟩ := readReg_eq { s with inputs := rest } r
    exact ⟨v, k, hv, hstep.trans (congrArg _ e)⟩
  | bufWrite i v =>
    exact ⟨_, hstep, byteAt_writeHostByte _ _ v, fun b j h => load_writeHostByte_of_ne v h,
      regsKept_writeHostByte _ _ v, ⟨rfl, rfl, rfl⟩, rfl, rfl, rfl⟩
  | bufRead b i =>
    obtain ⟨v, k, hv, e⟩ := readBuf_eq { s with inputs := rest } b i.toNat
    exact ⟨v, k, hv, hstep.trans (congrArg _ e)⟩

/-! ### The scan for the address `FF` -/

/-- The third byte of a candidate is never `FF` (R193). -/
theorem not_address_ff_of_isCandidate {buf : List Byte} {h : Nat} (hc : isCandidate buf h = true) :
    buf[h + 2]? ≠ some 0xFF := by
  obtain ⟨-, -, x, hx, hne⟩ := (isCandidate_iff buf h).1 hc
  simpa [hx] using hne

/-- The scan passes over every candidate, and past the last byte there is none. -/
theorem scan_ff_eq_notFound (l : Nat) (buf : List Byte) : scan 0xFF l buf = .notFound := by
  have hend : findHeader buf buf.length = none := findHeader_eq_none.2 fun g hg => by
    by_contra hc
    have := isCandidate_lt (Bool.eq_true_of_not_eq_false hc)
    omega
  rw [scan_eq_scanAt, scanAt_skip (Nat.zero_le buf.length) fun _ _ _ => not_address_ff_of_isCandidate, scanAt_eq, hend]

/-- In a session, a scan that finds nothing makes SR_EXTRACT fail with NOT_FOUND (R195). -/
theorem execSrExtract_notFound (ha : s.sra = true)
    (hscan : scan s.aAddr s.srL.toNat (s.srbuf.read s.drawCount 0 s.srRawlen.toNat) = .notFound) :
    execSrExtract s = .next
      (State.failExtract (.framing .notFound) { s.spend s.srRawlen.toNat with srCur := 0, pv := false }) := by
  simp only [execSrExtract, ha, hscan, Bool.true_eq_false, if_false]

/-- Settles O37: no candidate has the address `FF`, so the scan for it finds nothing. -/
theorem addressFFIsNeverFound : Obligations.AddressFFIsNeverFound := by
  unfold Obligations.AddressFFIsNeverFound
  intro s ha hff
  have hscan : scan s.aAddr s.srL.toNat (s.srbuf.read s.drawCount 0 s.srRawlen.toNat) = .notFound := by
    rw [hff, scan_ff_eq_notFound]
  exact ⟨_, execSrExtract_notFound ha hscan, by simp [Cause.code, Cause.sub, FramingCause.code]⟩

end Sys2Proof.Machine
end

section
/-! What the decoder accepts: a host word is accepted exactly when it is the word of a well-formed transaction, and that
is when no clause of R103 refuses it. -/

namespace Sys2Proof

/-- KIND, SPACE, INDEX and VALUE of a transaction's word (R100, R101). -/
def HostTxn.fields : HostTxn → Nat × Nat × Nat × Nat
  | .regWrite r v => (0, Space.reg.code, r.number, v.toNat)
  | .regRead r => (1, Space.reg.code, r.number, 0)
  | .bufWrite i v => (2, (Space.buf .hbuf).code, i.toNat, v.toNat)
  | .bufRead b i => (3, (Space.buf b).code, i.toNat, 0)

theorem encodeTxn_of_fields {t : HostTxn} {kind space index value : Nat} (h : t.fields = (kind, space, index, value)) :
    encodeTxn t = packHostWord kind space index value := by
  cases t <;> cases h <;> rfl

theorem Space.code_lt (sp : Space) : sp.code < 8 := by
  cases sp with
  | reg => decide
  | buf b => cases b <;> decide

theorem HostTxn.fields_lt {t : HostTxn} {kind space index value : Nat} (h : t.fields = (kind, space, index, value)) :
    kind < 4 ∧ space < 8 ∧ index < 2 ^ 16 ∧ value < 2 ^ 32 := by
  cases t <;> cases h <;> refine ⟨by decide, Space.code_lt _, ?_, ?_⟩
  case regWrite.refl.refine_1 r v | regRead.refl.refine_1 r => have := r.number_lt; omega
  all_goals omega

/-! ### A decoded transaction has the fields it was decoded from -/

theorem fields_of_decodeRegWrite {index value : Nat} {t : HostTxn} (hv : value < 2 ^ 32)
    (h : decodeRegWrite index value = .ok t) : t.fields = (0, Space.reg.code, index, value) := by
  unfold decodeRegWrite at h
  split at h
  · cases h
  next r hr =>
    split_ifs at h
    cases h
    simp only [HostTxn.fields, Reg.number_of_ofNumber? hr, BitVec.toNat_ofNat, Nat.mod_eq_of_lt hv]

theorem fields_of_decodeRegRead {index value : Nat} {t : HostTxn} (h : decodeRegRead index value = .ok t) :
    t.fields = (1, Space.reg.code, index, value) := by
  unfold decodeRegRead at h
  split at h
  · cases h
  next r hr =>
    split_ifs at h with hvalue
    cases h
    simp only [HostTxn.fields, Reg.number_of_ofNumber? hr, not_not.1 hvalue]

theorem fields_of_decodeBufWrite {cap index value : Nat} {b : Buf} {t : HostTxn} (hi : index < 2 ^ 16)
    (h : decodeBufWrite cap b index value = .ok t) : t.fields = (2, (Space.buf b).code, index, value) := by
  unfold decodeBufWrite at h
  split_ifs at h with hb _ hbyte
  cases h
  obtain rfl : b = .hbuf := not_not.1 hb
  simp only [HostTxn.fields, BitVec.toNat_ofNat, Nat.mod_eq_of_lt hi, Nat.mod_eq_of_lt (by omega : value < 2 ^ 8)]

theorem fields_of_decodeBufRead {cap index value : Nat} {b : Buf} {t : HostTxn} (hi : index < 2 ^ 16)
    (h : decodeBufRead cap b index value = .ok t) : t.fields = (3, (Space.buf b).code, index, value) := by
  unfold decodeBufRead at h
  split_ifs at h with _ hvalue
  cases h
  simp only [HostTxn.fields, BitVec.toNat_ofNat, Nat.mod_eq_of_lt hi, not_not.1 hvalue]

theorem fields_of_decodeFields {cap kind space reserved index value : Nat} {t : HostTxn} (hi : index < 2 ^ 16)
    (hv : value < 2 ^ 32) (h : decodeFields cap kind space reserved index value = .ok t) :
    reserved = 0 ∧ t.fields = (kind, space, index, value) := by
  unfold decodeFields at h
  split at h
  · cases h
  next hres =>
  refine ⟨not_not.1 hres, ?_⟩
  split at h
  · cases h
  next hsp =>
    rw [← Space.code_of_ofCode? hsp]
    split_ifs at h with h0 h1
    · exact h0 ▸ fields_of_decodeRegWrite hv h
    · exact h1 ▸ fields_of_decodeRegRead h
  next b hsp =>
    rw [← Space.code_of_ofCode? hsp]
    split_ifs at h with h2 h3
    · exact h2 ▸ fields_of_decodeBufWrite hi h
    · exact h3 ▸ fields_of_decodeBufRead hi h

/-! ### The fields of a well-formed transaction are decoded -/

theorem decodeFields_of_wf {cap kind space index value : Nat} {t : HostTxn} (hw : t.wf cap = true)
    (hf : t.fields = (kind, space, index, value)) : decodeFields cap kind space 0 index value = .ok t := by
  cases t <;> cases hf <;> simp only [decodeFields, Space.ofCode?_code]
  case regWrite r v =>
    simp only [HostTxn.wf, Bool.and_eq_true, decide_eq_true_eq] at hw
    obtain ⟨⟨hwritable, hwidth⟩, hmask⟩ := hw
    simp [decodeRegWrite, Reg.ofNumber?_number, hwritable, hwidth, hmask]
  case regRead r => simp [decodeRegRead, Reg.ofNumber?_number]
  case bufWrite i v =>
    have hi : ¬ Buf.hbuf.size cap ≤ i.toNat := by simpa [HostTxn.wf] using hw
    have hv : ¬ 0xFF < v.toNat := by omega
    simp [decodeBufWrite, hi, hv]
  case bufRead b i =>
    have hi : ¬ b.size cap ≤ i.toNat := by simpa [HostTxn.wf] using hw
    simp [decodeBufRead, hi]

/-! ### The tables of R22, R100 and R102 in numbers -/

theorem Reg.writable_iff (r : Reg) :
    r.writable = true ↔ ¬ (2 ≤ r.number ∧ r.number ≤ 6 ∨ 16 ≤ r.number ∧ r.number ≤ 23) := by
  cases r <;> decide

theorem Reg.exists_number_eq {n : Nat} (h : n < 24) : ∃ r : Reg, r.number = n := by
  have hr : n < Reg.all.length := h
  exact ⟨Reg.all[n], Reg.number_of_ofNumber? (List.getElem?_eq_getElem hr)⟩

theorem Reg.and_reservedMask_eq_zero_iff {r : Reg} {v : Nat} (hv : v < 2 ^ r.width) :
    v &&& r.reservedMask = 0 ↔ ¬ (r.number = 1 ∧ 2 ≤ v ∨ r.number = 13 ∧ v / 16 % 8 ≠ 0) := by
  have ctrl : ∀ b : Byte, b.toNat &&& 0xFE = 0 ↔ ¬ 2 ≤ b.toNat := by decide
  have sbit : ∀ b : Byte, b.toNat &&& 0x70 = 0 ↔ ¬ b.toNat / 16 % 8 ≠ 0 := by decide
  cases r <;> simp only [Reg.width] at hv
  case ctrl => simpa [Reg.reservedMask, Reg.number] using ctrl (BitVec.ofNatLT v hv)
  case aSbit => simpa [Reg.reservedMask, Reg.number] using sbit (BitVec.ofNatLT v hv)
  all_goals simp [Reg.reservedMask, Reg.number]

theorem Space.exists_buf_code_eq {n : Nat} (h : n < 8) (h0 : n ≠ 0) (h6 : n ≠ 6) (h7 : n ≠ 7) :
    ∃ b, (Space.buf b).code = n := by
  interval_cases n
  · exact absurd rfl h0
  · exact ⟨.hbuf, rfl⟩
  · exact ⟨.txbuf, rfl⟩
  · exact ⟨.rxbuf, rfl⟩
  · exact ⟨.srbuf, rfl⟩
  · exact ⟨.pkt, rfl⟩
  · exact absurd rfl h6
  · exact absurd rfl h7

end Sys2Proof

namespace Sys2Proof.Machine

theorem registerWidth_number (r : Reg) : registerWidth r.number = r.width := by cases r <;> rfl

theorem spaceSize_code (cap : Nat) (b : Buf) : spaceSize cap (Space.buf b).code = b.size cap := by cases b <;> rfl

/-- The clauses (f), (g) and (i) of R103 for a register write. -/
theorem wf_regWrite_iff (cap : Nat) (r : Reg) (v : Word) : (HostTxn.regWrite r v).wf cap = true ↔
    ¬ (2 ≤ r.number ∧ r.number ≤ 6 ∨ 16 ≤ r.number ∧ r.number ≤ 23) ∧ ¬ 2 ^ registerWidth r.number ≤ v.toNat ∧
      ¬ (r.number = 1 ∧ 2 ≤ v.toNat ∨ r.number = 13 ∧ v.toNat / 16 % 8 ≠ 0) := by
  rw [registerWidth_number, ← Reg.writable_iff, Nat.not_le]
  simp only [HostTxn.wf, Bool.and_eq_true, decide_eq_true_eq, and_assoc]
  exact and_congr_right fun _ => and_congr_right fun hv => Reg.and_reservedMask_eq_zero_iff hv

/-! ### The accepted words -/

/-- A word is accepted as a transaction exactly when it holds the fields of it, no other bit, and R103 accepts it. -/
theorem decodeWord_eq_ok_iff {cap : Nat} {w : HostWord} {t : HostTxn} : decodeWord cap w = .ok t ↔
    reservedOf w = 0 ∧ t.fields = (kindOf w, spaceOf w, indexOf w, valueOf w) ∧ t.wf cap = true := by
  constructor
  · intro h
    obtain ⟨hres, hf⟩ := fields_of_decodeFields (Nat.mod_lt _ (by decide)) (Nat.mod_lt _ (by decide)) h
    exact ⟨hres, hf, HostTxn.wf_of_decodeWord h⟩
  · rintro ⟨hres, hf, hw⟩
    have h := decodeFields_of_wf hw hf
    rw [← hres] at h
    exact h

/-- Settles O1: the fields of the transaction come back from its word, and they decode to it. -/
theorem hostWordDecodesToItsTransaction : Obligations.HostWordDecodesToItsTransaction := by
  unfold Obligations.HostWordDecodesToItsTransaction
  intro cap t hw
  obtain ⟨kind, space, index, value, hf⟩ : ∃ kind space index value, t.fields = (kind, space, index, value) :=
    ⟨_, _, _, _, rfl⟩
  obtain ⟨hk, hs, hi, hv⟩ := HostTxn.fields_lt hf
  rw [encodeTxn_of_fields hf, decodeWord_packHostWord cap kind space index value hk hs hi hv]
  exact decodeFields_of_wf hw hf

/-- Settles O2: an accepted word is the packing of its fields, which are those of the transaction it decodes to. -/
theorem acceptedHostWordHasOneMeaning : Obligations.AcceptedHostWordHasOneMeaning := by
  unfold Obligations.AcceptedHostWordHasOneMeaning
  intro cap w t h
  obtain ⟨hres, hf, hw⟩ := decodeWord_eq_ok_iff.1 h
  exact ⟨hw, (encodeTxn_of_fields hf).trans (packHostWord_fields w hres)⟩

/-! ### The refused words -/

/-- No clause refuses an accepted word. -/
theorem not_refusedWord_of_decodeWord {cap : Nat} {w : HostWord} {t : HostTxn} (h : decodeWord cap w = .ok t) :
    ¬ RefusedWord cap w := by
  obtain ⟨hres, hf, hw⟩ := decodeWord_eq_ok_iff.1 h
  unfold RefusedWord
  cases t <;> simp only [HostTxn.fields, Prod.mk.injEq] at hf <;> obtain ⟨hk, hs, hi, hv⟩ := hf <;>
    simp only [hres, ← hk, ← hs, ← hi, ← hv]
  case regWrite r v =>
    obtain ⟨hreadOnly, hwide, hfield⟩ := (wf_regWrite_iff cap r v).1 hw
    simp [Space.code, spaceSize, r.number_lt, hreadOnly, hwide, hfield]
  case regRead r => simp [Space.code, spaceSize, r.number_lt]
  case bufWrite i v =>
    have hsize := of_decide_eq_true hw
    have hbyte : v.toNat ≤ 255 := Nat.le_of_lt_succ v.isLt
    rw [spaceSize_code]
    simp [Space.code, hsize, hbyte]
  case bufRead b i =>
    have hsize := of_decide_eq_true hw
    rw [spaceSize_code]
    cases b <;> simp [Space.code, hsize]

/-- A word that no clause refuses stands for a transaction. -/
theorem exists_decodeWord_of_not_refusedWord {cap : Nat} {w : HostWord} (h : ¬ RefusedWord cap w) :
    ∃ t, decodeWord cap w = .ok t := by
  have hk : kindOf w = 0 ∨ kindOf w = 1 ∨ kindOf w = 2 ∨ kindOf w = 3 := by unfold kindOf; omega
  have hs : spaceOf w < 8 := Nat.mod_lt _ (by decide)
  obtain ⟨i, hi⟩ : ∃ i : Half, i.toNat = indexOf w := ⟨BitVec.ofNatLT _ (Nat.mod_lt _ (by decide)), rfl⟩
  obtain ⟨v, hv⟩ : ∃ v : Word, v.toNat = valueOf w := ⟨BitVec.ofNatLT _ (Nat.mod_lt _ (by decide)), rfl⟩
  simp only [decodeWord_eq_ok_iff, ← hi, ← hv]
  simp only [RefusedWord, not_or, ← hi, ← hv] at h
  obtain ⟨⟨hres, hs6, hs7⟩, ⟨hreg, hbuf⟩, hwritable, hindex, hread, hreadOnly, hwide, hbyte, hfield⟩ := h
  refine (exists_congr fun t => and_iff_right (not_not.1 hres)).2 ?_
  rcases hk with hk | hk | hk | hk -- REGWR, REGRD, BUFWR, BUFRD
  · have hs0 : spaceOf w = 0 := not_not.1 fun h => hreg ⟨.inl hk, h⟩
    obtain ⟨r, hr⟩ := Reg.exists_number_eq (by simpa [hs0, spaceSize] using hindex)
    refine ⟨.regWrite r v, by rw [hk, hs0, ← hr]; rfl, (wf_regWrite_iff cap r v).2 ?_⟩
    rw [hr]
    exact ⟨fun h => hreadOnly ⟨hk, h⟩, fun h => hwide ⟨hk, h⟩, fun h => hfield ⟨hk, h⟩⟩
  · have hs0 : spaceOf w = 0 := not_not.1 fun h => hreg ⟨.inr hk, h⟩
    obtain ⟨r, hr⟩ := Reg.exists_number_eq (by simpa [hs0, spaceSize] using hindex)
    have hv0 : v.toNat = 0 := not_not.1 fun h => hread ⟨.inl hk, h⟩
    exact ⟨.regRead r, by rw [hk, hs0, ← hr, hv0]; rfl, rfl⟩
  · have hs1 : spaceOf w = 1 := not_not.1 fun h => hwritable ⟨hk, h⟩
    have hsize : i.toNat < Buf.hbuf.size cap := by simpa [hs1, spaceSize, Buf.size] using hindex
    have hbyte : v.toNat < 2 ^ 8 := Nat.lt_of_not_le fun h => hbyte ⟨hk, h⟩
    exact ⟨.bufWrite i (BitVec.ofNatLT v.toNat hbyte), by rw [hk, hs1]; rfl, decide_eq_true hsize⟩
  · obtain ⟨b, hb⟩ := Space.exists_buf_code_eq hs (fun h => hbuf ⟨.inr hk, h⟩) hs6 hs7
    have hsize : i.toNat < b.size cap := by rwa [← hb, spaceSize_code, Nat.not_le] at hindex
    have hv0 : v.toNat = 0 := not_not.1 fun h => hread ⟨.inr hk, h⟩
    exact ⟨.bufRead b i, by rw [hk, ← hb, hv0]; rfl, decide_eq_true hsize⟩

/-- Settles O5: a word is decoded exactly when no clause refuses it, and an accepted transaction has a next state. -/
theorem refusedExactlyByTheClauses : Obligations.RefusedExactlyByTheClauses := by
  unfold Obligations.RefusedExactlyByTheClauses
  intro s w rest hin
  constructor
  · intro hr
    cases hd : decodeWord s.srBufCap.toNat w with
    | error why => exact ⟨why, step_refused hin hd⟩
    | ok t => exact absurd hr (not_refusedWord_of_decodeWord hd)
  · intro hr
    obtain ⟨t, hd⟩ := exists_decodeWord_of_not_refusedWord hr
    rw [step_accepted hin hd]
    exact runTxn_next t _

end Sys2Proof.Machine
end

section
/-! The command codes and the opcode table: which codes are listed, and what the step runs for each row. -/

namespace Sys2Proof

/-! ### Command codes -/

/-- The codes of R95 are those outside the three ranges of R96. -/
theorem Instr.ofCommand?_eq_none_iff (c : Byte) : Instr.ofCommand? c = none ↔
    (0x08 ≤ c.toNat ∧ c.toNat ≤ 0x0F) ∨ (0x16 ≤ c.toNat ∧ c.toNat ≤ 0x1F) ∨ 0x24 ≤ c.toNat := by
  revert c
  decide

theorem Instr.ofCommand?_commandCode? {i : Instr} {c : Byte} (h : i.commandCode? = some c) :
    Instr.ofCommand? c = some i := by
  cases i <;> simp only [Instr.commandCode?, Option.some.injEq, reduceCtorEq] at h <;> subst h <;> rfl

/-- The word of a command is its code (R95, R100). -/
theorem commandWord_eq (c : Byte) : commandWord c = BitVec.ofNat 64 c.toNat := by
  have hc : (c.setWidth 32).toNat = c.toNat := BitVec.toNat_setWidth_of_le (by decide)
  simp only [commandWord, encodeTxn, packHostWord, Space.code, Reg.number, hc, Nat.zero_mul, Nat.zero_add]

/-! ### The rows of the opcode table -/

theorem encode_instr (op : WireOp) : encode op.instr = (8, op.code.toNat) := by cases op <;> rfl

theorem encode_of_commandCode? {i : Instr} {c : Byte} (h : i.commandCode? = some c) :
    encode i = (64, (commandWord c).toNat) := by
  cases i <;> cases h <;> rfl

/-- Every row is a wire instruction or a command. -/
theorem Instr.exists_wireOp_or_commandCode (i : Instr) :
    (∃ op : WireOp, i = op.instr) ∨ ∃ c, i.commandCode? = some c := by
  cases i
  case ping => exact .inl ⟨.ping, rfl⟩
  case read => exact .inl ⟨.read, rfl⟩
  case write => exact .inl ⟨.write, rfl⟩
  case bwrite => exact .inl ⟨.bwrite, rfl⟩
  case btrigger => exact .inl ⟨.btrigger, rfl⟩
  case syncread => exact .inl ⟨.syncread, rfl⟩
  case syncwrite => exact .inl ⟨.syncwrite, rfl⟩
  all_goals exact .inr ⟨_, rfl⟩

end Sys2Proof

namespace Sys2Proof.Machine

theorem runCommand_of_ofCommand? {c : Byte} {i : Instr} (h : Instr.ofCommand? c = some i) (s : State) :
    runCommand c s = exec i s := by
  simp only [runCommand, h]

theorem runCommand_illegal {c : Byte} (h : Instr.ofCommand? c = none) (s : State) :
    runCommand c s = .next { s with err := 0x05, esub := 0x00 } := by
  simp only [runCommand, h]
  rfl

/-- The row that `encode` gives an instruction decodes to it. -/
theorem decodeTableWord_encode (i : Instr) : Laws.TableRoundTrip.Statement i :=
  match i with
  | .ping => Laws.TableRoundTrip.ping
  | .read => Laws.TableRoundTrip.read
  | .write => Laws.TableRoundTrip.write
  | .bwrite => Laws.TableRoundTrip.bwrite
  | .btrigger => Laws.TableRoundTrip.btrigger
  | .syncread => Laws.TableRoundTrip.syncread
  | .syncwrite => Laws.TableRoundTrip.syncwrite
  | .nop => Laws.TableRoundTrip.nop
  | .cksum => Laws.TableRoundTrip.cksum
  | .encode => Laws.TableRoundTrip.encode
  | .decode => Laws.TableRoundTrip.decode
  | .send => Laws.TableRoundTrip.send
  | .flushRx => Laws.TableRoundTrip.flushRx
  | .recv => Laws.TableRoundTrip.recv
  | .xact => Laws.TableRoundTrip.xact
  | .srBegin => Laws.TableRoundTrip.srBegin
  | .srXfer => Laws.TableRoundTrip.srXfer
  | .srExtract => Laws.TableRoundTrip.srExtract
  | .srNextByte => Laws.TableRoundTrip.srNextByte
  | .srNextWord => Laws.TableRoundTrip.srNextWord
  | .srEnd => Laws.TableRoundTrip.srEnd
  | .h2b => Laws.TableRoundTrip.h2b
  | .b2h => Laws.TableRoundTrip.b2h
  | .smDec => Laws.TableRoundTrip.smDec
  | .smEnc => Laws.TableRoundTrip.smEnc

/-- Settles O3: the lists are checked word by word, and every row decodes from its own encoding. -/
theorem specWordsDecode : Obligations.SpecWordsDecode := by
  unfold Obligations.SpecWordsDecode
  have accepted : ∀ p ∈ specHostWords, decodeWord 64 p.1 = .ok p.2 := by
    simp only [specHostWords, List.forall_mem_append]
    exact ⟨⟨by decide, by decide⟩, by decide⟩
  have refused : ∀ w ∈ specRefusedWords, RefusedWord 64 w := by
    simp [specRefusedWords, RefusedWord, kindOf, spaceOf, reservedOf, indexOf, valueOf, spaceSize, registerWidth]
  exact ⟨accepted, fun w hw t ht => not_refusedWord_of_decodeWord ht (refused w hw), by decide, by decide,
    decodeTableWord_encode⟩

/-- Settles O4: the step runs the code, and a code outside the table raises ILLEGAL_CMD and no more. -/
theorem illegalCommandCodes : Obligations.IllegalCommandCodes := by
  unfold Obligations.IllegalCommandCodes
  refine ⟨Instr.ofCommand?_eq_none_iff, fun s c rest hc hin => ?_⟩
  rw [step_command hin, runCommand_illegal ((Instr.ofCommand?_eq_none_iff c).2 hc)]

/-- Settles O6: the step runs the code, and each code of R95 is that of its command. -/
theorem commandCodeRunsItsCommand : Obligations.CommandCodeRunsItsCommand := by
  unfold Obligations.CommandCodeRunsItsCommand
  intro s rest c i hmem hin
  have hcode : Instr.ofCommand? c = some i :=
    (show ∀ p ∈ _, Instr.ofCommand? p.1 = some p.2 by decide) (c, i) hmem
  rw [step_command hin, runCommand_of_ofCommand? hcode]

/-- The step after a row is stored runs the command of the row's word (log 13). -/
theorem step_withFetchWord {s : State} {nbits w : Nat} {c : Byte} (h : tableRowWord nbits w = commandWord c) :
    step (s.withFetchWord nbits w) = runCommand c { s with aInstr := tableRowInstr nbits w s, cmd := c } := by
  rw [step_command (c := c) (rest := s.inputs)]
  · rfl
  · simp only [State.withFetchWord, h, commandWord_eq]

theorem wireCode_injective : Function.Injective WireOp.code := fun a b h => by
  simpa only [ofCode?_code, Option.some.injEq] using congrArg WireOp.ofCode? h

/-- XACT with a wire code in `A_INSTR` is that wire instruction (R86, R163). -/
theorem exec_xact_eq_exec_instr {op : WireOp} {s : State} (ho : op ≠ .syncread) (hs : s.aInstr = op.code) :
    exec .xact s = exec op.instr s :=
  (exec_transact (.inr ⟨rfl, hs⟩) ho).trans (exec_transact (.inl rfl) ho).symm

/-- A wire row but SyncRead's is stored as `cmd XACT`, with its code in `A_INSTR`. -/
theorem tableRow_of_ne_syncread {op : WireOp} (ho : op ≠ .syncread) (s : State) :
    tableRowWord 8 op.code.toNat = commandWord 0x07 ∧ tableRowInstr 8 op.code.toNat s = op.code := by
  have hne : op.code.toNat ≠ WireOp.syncread.code.toNat := fun h =>
    ho (wireCode_injective (BitVec.eq_of_toNat_eq h))
  simp [tableRowWord, tableRowInstr, hne]

/-- Settles O7: both are the transaction of the wire operation, and a stored row is `cmd XACT` with its code selected,
`cmd SR_XFER` for SyncRead, or its own word. -/
theorem wireInstructionIsItsTransaction : Obligations.WireInstructionIsItsTransaction := by
  unfold Obligations.WireInstructionIsItsTransaction
  refine ⟨fun s i hmem => ?_, fun s => rfl, fun s i => ?_⟩
  · obtain ⟨op, ho, hs, rfl⟩ : ∃ op : WireOp, op ≠ .syncread ∧ s.aInstr = op.code ∧ i = op.instr := by
      simp only [List.mem_cons, Prod.mk.injEq, List.not_mem_nil, or_false] at hmem
      rcases hmem with h | h | h | h | h | h
      exacts [⟨.ping, by decide, h⟩, ⟨.read, by decide, h⟩, ⟨.write, by decide, h⟩, ⟨.bwrite, by decide, h⟩,
        ⟨.btrigger, by decide, h⟩, ⟨.syncwrite, by decide, h⟩]
    exact exec_xact_eq_exec_instr ho hs
  · rcases i.exists_wireOp_or_commandCode with ⟨op, rfl⟩ | ⟨c, hc⟩
    · rw [encode_instr]
      by_cases ho : op = .syncread
      · subst ho
        exact ⟨s.aInstr, 0x11, step_withFetchWord (c := 0x11) rfl⟩
      · obtain ⟨hword, hinstr⟩ := tableRow_of_ne_syncread ho s
        refine ⟨op.code, 0x07, ?_⟩
        rw [step_withFetchWord hword, hinstr]
        exact exec_xact_eq_exec_instr ho rfl
    · rw [encode_of_commandCode? hc]
      refine ⟨s.aInstr, c, ?_⟩
      rw [step_withFetchWord (c := c), runCommand_of_ofCommand? (Instr.ofCommand?_commandCode? hc)]
      · rfl
      · simp [tableRowWord]

end Sys2Proof.Machine
end

section
/-! The SyncRead exchange in a session. -/

namespace Sys2Proof.Machine

/-- The exchange when every check of R192 passes: the frame is transmitted, and up to `SR_SIZE` bytes are kept. -/
theorem syncReadTransfer_ok {s : State} (ha : s.sra = true) (h0 : s.aCnt ≠ 0) (h247 : s.aCnt.toNat ≤ 247) :
    ∃ ids arrived k, s.hbuf.Reads 0 s.aCnt.toNat ids ∧ (∀ a rest, s.draws = a :: rest → arrived = a) ∧
      s.syncReadTransfer = { s with
        txbuf := s.txbuf.write 0 (wireFrame 0xFE 0x82 (s.aReg :: s.srL :: ids)),
        txlen := BitVec.ofNat 8 (s.aCnt.toNat + 8),
        txout := s.txout ++ wireFrame 0xFE 0x82 (s.aReg :: s.srL :: ids),
        srbuf := s.srbuf.write 0 (arrived.take s.srSize.toNat),
        srRawlen := BitVec.ofNat 16 (arrived.take s.srSize.toNat).length,
        result := BitVec.ofNat 32 (arrived.take s.srSize.toNat).length,
        rxq := arrived.drop s.srSize.toNat, draws := s.draws.tail, err := 0x00, esub := 0x00, drawCount := k } := by
  have hactive : ¬ s.sra = false := by simp [ha]
  have hcount : ¬ s.aCnt.toNat = 0 := fun h => h0 (BitVec.eq_of_toNat_eq h)
  have hl : (s.hostBytes s.aCnt.toNat).length = s.aCnt.toNat := Memory.length_read _ _ _ _
  refine ⟨s.hostBytes s.aCnt.toNat, State.arrivals (s.spend s.aCnt.toNat), s.drawCount + s.aCnt.toNat + 1,
    Memory.reads_read _ _ _ _, fun a rest hd => by simp only [State.arrivals, State.spend_fields, hd], ?_⟩
  simp only [State.syncReadTransfer, if_neg hactive, if_neg hcount, if_neg (Nat.not_lt.2 h247), State.transmit,
    State.placeFrame, buildFrame_eq_wireFrame, length_wireFrame, List.length_cons, hl, State.spend, State.rxFlush,
    State.txEmit, State.rxRest, State.rxTaken, State.setResult, State.succeed, State.arrivals, List.nil_append]
  rfl

/-- Settles O30: the wire instruction SyncRead is the exchange of SR_XFER, which then passes every check of R192. -/
theorem syncReadCompletesInASession : Obligations.SyncReadCompletesInASession := by
  unfold Obligations.SyncReadCompletesInASession
  intro s ha h0 h247
  obtain ⟨ids, arrived, k, hids, harrived, e⟩ := syncReadTransfer_ok ha h0 h247
  exact ⟨ids, arrived, k, hids, harrived, congrArg _ e⟩

end Sys2Proof.Machine
end

section
/-! The host programs: what each pseudo-instruction expands to. -/

namespace Sys2Proof

theorem assemble_cons (l : AsmLine) (p : List AsmLine) : assemble (l :: p) = l.words ++ assemble p := rfl

theorem assemble_singleton (l : AsmLine) : assemble [l] = l.words := List.append_nil _

theorem assemble_append (p q : List AsmLine) : assemble (p ++ q) = assemble p ++ assemble q := List.flatMap_append

theorem assemble_wb_from (j : Nat) (bs : List Word) :
    assemble (bs.mapIdx (fun k b => .wb (BitVec.ofNat 16 (j + k)) b)) = asmBytes j bs := by
  induction bs generalizing j with
  | nil => rfl
  | cons b bs ih =>
    have ih' := ih (j + 1)
    simp only [Nat.add_assoc, Nat.add_comm 1] at ih'
    rw [List.mapIdx_cons, assemble_cons, ih']
    rfl

/-- The writes of a list to `HBUF` are its `wb` lines, in order (R106). -/
theorem assemble_wb (bs : List Word) :
    assemble (bs.mapIdx (fun j b => .wb (BitVec.ofNat 16 j) b)) = asmBytes 0 bs := by
  simpa only [Nat.zero_add] using assemble_wb_from 0 bs

/-- Settles O10: the words of a line are those of its expansion, once the writes of a list are read as `wb` lines. -/
theorem pseudoInstructionsExpand : Obligations.PseudoInstructionsExpand := by
  unfold Obligations.PseudoInstructionsExpand
  refine ⟨fun _ _ => rfl, fun _ => rfl, fun _ _ => rfl, fun _ _ => rfl, ?cmd, fun _ => rfl, fun _ _ _ => rfl, ?write,
    ?bwrite, fun _ => rfl, ?syncwrite, fun _ _ => rfl, ?srxfer, fun _ => rfl, fun _ => rfl⟩
  case cmd =>
    intro i c hc
    simp only [AsmLine.words, asmCmd, hc]
  case write | bwrite | syncwrite | srxfer =>
    intros
    rw [assemble_append, assemble_wb, assemble_singleton]
    exact List.append_assoc _ _ _

end Sys2Proof
end

section
/-! DECODE. A response is accepted when the bytes from its address on sum to 255 modulo 256, so a single change is
always seen, and changes that cancel in the sum never are. The statements of 40_frame_codec.md about DECODE. -/

namespace Sys2Proof.Machine

variable {s : State} {r : List Byte}

/-! ### DECODE of known bytes -/

/-- DECODE of bytes that fail a check (R132). -/
theorem decode_rejects (hr : s.rxbuf.Holds r) (hl : s.rxlen.toNat = r.length) {c : Cause}
    (hc : checkResponse r s.aAddr s.aLen.toNat s.aInstr = .error c) :
    ∃ t, exec .decode s = .next t ∧ t.err = c.code ∧ t.esub = c.sub ∧ t.sv = false ∧ t.result = 0 := by
  refine ⟨_, rfl, ?_⟩
  simp only [State.decodeReceived, hl, hr.read_eq, hc]
  exact ⟨rfl, rfl, rfl, rfl⟩

/-- DECODE of bytes that pass every check (R132). -/
theorem decode_accepts (hr : s.rxbuf.Holds r) (hl : s.rxlen.toNat = r.length) {resp : Response}
    (hc : checkResponse r s.aAddr s.aLen.toNat s.aInstr = .ok resp) :
    ∃ t, exec .decode s = .next t ∧ t.err = 0x00 ∧ t.status = resp.status ∧ t.sv = true ∧ t.rspAddr = resp.address ∧
      t.result = BitVec.ofNat 32 s.aLen.toNat ∧ t.hbuf = s.hbuf.write 0 resp.data := by
  refine ⟨_, rfl, ?_⟩
  simp only [State.decodeReceived, hl, hr.read_eq, hc]
  exact ⟨rfl, rfl, rfl, rfl, rfl, rfl⟩

/-! ### The checks in terms of the sum -/

/-- A byte is the checksum of a list exactly when it brings the sum to 255 modulo 256. -/
theorem eq_checksum_iff (v : Byte) (body : List Byte) :
    v = checksum body ↔ ((body ++ [v]).map BitVec.toNat).sum % 256 = 255 := by
  simp only [checksum_eq_wireChecksum, wireChecksum, ← BitVec.toNat_inj, BitVec.toNat_ofNat, List.map_append,
    List.sum_append, List.map_cons, List.map_nil, List.sum_singleton]
  omega

/-- The response check of bytes with the right header and the right count: the checksum is a check of the sum. -/
theorem checkResponse_of_sum {n : Nat} (hn : n ≤ 249) (x l : Byte) {t : List Byte} (ht : t.length = n + 2)
    (a i : Byte) :
    checkResponse (0xFF :: 0xFF :: x :: l :: t) a n i =
      if ¬ (i = 0x01 ∧ a = 0xFE) ∧ x ≠ a then .error (.framing .address)
      else if l.toNat ≠ n + 2 then .error (.framing .length)
      else if ((x :: l :: t).map BitVec.toNat).sum % 256 ≠ 255 then .error (.framing .checksum)
      else .ok { address := x, status := t.getD 0 0, data := (t.drop 1).take n } := by
  have hsplit : t.take (n + 1) ++ [t.getD (n + 1) 0] = t := by
    rw [List.getD_eq_getElem t 0 (by omega), List.take_concat_get', List.take_of_length_le (by omega)]
  have hsum := eq_checksum_iff (t.getD (n + 1) 0) (x :: l :: t.take (n + 1))
  rw [List.cons_append, List.cons_append, hsplit] at hsum
  rw [checkResponse_of_header hn x l ht]
  simp only [Ne, hsum]

/-- Bytes of the right count whose header is wrong. -/
theorem checkResponse_of_wrong_header {n : Nat} (hn : n ≤ 249) (hl : r.length = n + 6)
    (h : r.getD 0 0 ≠ 0xFF ∨ r.getD 1 0 ≠ 0xFF) (a i : Byte) :
    checkResponse r a n i = .error (.framing .header) := by
  unfold checkResponse
  rw [if_neg (by omega), if_neg (by omega), if_neg (by omega), if_pos h]

/-! ### A response frame -/

/-- The bytes of a frame after its length byte. -/
def frameTail (b st : Byte) (data : List Byte) : List Byte :=
  st :: data ++ [checksum ([b, BitVec.ofNat 8 (data.length + 2), st] ++ data)]

theorem wireFrame_eq_cons (b st : Byte) (data : List Byte) : wireFrame b st data =
    0xFF :: 0xFF :: b :: BitVec.ofNat 8 (data.length + 2) :: frameTail b st data := by
  rw [frameTail, checksum_eq_wireChecksum]
  rfl

@[simp] theorem length_frameTail (b st : Byte) (data : List Byte) :
    (frameTail b st data).length = data.length + 2 := by
  simp [frameTail]

theorem sum_frameTail (b st : Byte) (data : List Byte) :
    ((b :: BitVec.ofNat 8 (data.length + 2) :: frameTail b st data).map BitVec.toNat).sum % 256 = 255 :=
  (eq_checksum_iff _ ([b, BitVec.ofNat 8 (data.length + 2), st] ++ data)).mp rfl

theorem toNat_lengthByte {n : Nat} (hn : n ≤ 249) : (BitVec.ofNat 8 (n + 2)).toNat = n + 2 := by
  rw [BitVec.toNat_ofNat, Nat.mod_eq_of_lt (by omega)]

/-- The response check of bytes whose header, count, address and length byte are right: only the sum is left. -/
theorem checkResponse_of_length {n : Nat} (hn : n ≤ 249) {x a i : Byte} (ha : x = a ∨ (i = 0x01 ∧ a = 0xFE))
    {t : List Byte} (ht : t.length = n + 2) :
    checkResponse (0xFF :: 0xFF :: x :: BitVec.ofNat 8 (n + 2) :: t) a n i =
      if ((x :: BitVec.ofNat 8 (n + 2) :: t).map BitVec.toNat).sum % 256 ≠ 255 then .error (.framing .checksum)
      else .ok { address := x, status := t.getD 0 0, data := (t.drop 1).take n } := by
  rw [checkResponse_of_sum hn x _ ht, if_neg (fun ⟨hping, hx⟩ => ha.elim hx hping),
    if_neg (not_not_intro (toNat_lengthByte hn))]

/-- A frame passes every check when the address check lets it pass. -/
theorem checkResponse_wireFrame {b st a i : Byte} {data : List Byte} (hd : data.length ≤ 249)
    (ha : b = a ∨ (i = 0x01 ∧ a = 0xFE)) :
    checkResponse (wireFrame b st data) a data.length i = .ok { address := b, status := st, data := data } := by
  rw [wireFrame_eq_cons, checkResponse_of_length hd ha (length_frameTail b st data),
    if_neg (not_not_intro (sum_frameTail b st data))]
  simp [frameTail]

/-- Settles O16: a built frame passes every check, and what DECODE takes of it is what it was built of. -/
theorem frameRoundTrip : Obligations.FrameRoundTrip := by
  unfold Obligations.FrameRoundTrip
  intro s i p hp hlen hrx hr
  rw [buildFrame_eq_wireFrame] at hr
  have hc := checkResponse_wireFrame (st := i) (i := s.aInstr) hp (.inl (rfl : s.aAddr = s.aAddr))
  rw [← hlen] at hc
  obtain ⟨t, ht, herr, hstatus, hsv, haddr, hresult, hhbuf⟩ := decode_accepts hr (by simpa using hrx) hc
  refine ⟨t, ht, herr, hstatus, hsv, haddr, hlen ▸ hresult, fun j hj => ?_⟩
  rw [show t.byteAt .hbuf j = t.hbuf.load j from rfl, hhbuf]
  exact Memory.holds_write s.hbuf p j hj

/-- Settles O15: the shared decode leaves the effects of R132, for the bytes the machine reads. -/
theorem decodeChecksInOrder : Obligations.DecodeChecksInOrder := by
  unfold Obligations.DecodeChecksInOrder
  intro s
  exact ⟨_, _, Memory.reads_read _ _ _ _, congrArg Host.Outcome.next (decodeReceived_eq _ _ _ _)⟩

/-- Settles O17: the address check is the first that a response of another node fails. -/
theorem addressDiscrimination : Obligations.AddressDiscrimination := by
  unfold Obligations.AddressDiscrimination
  intro s b st data hd hlen hrx hr hb hping
  refine decode_rejects hr (by simpa using hrx) (c := .framing .address) ?_
  rw [wireFrame_eq_cons, checkResponse_of_sum (hlen ▸ hd) _ _ (by simp [hlen]), if_pos ⟨hping, hb⟩]

/-! ### A response with changed bytes -/

/-- One changed byte changes the sum modulo 256. -/
theorem sum_set_mod_ne {l : List Byte} {j : Nat} {v : Byte} (hj : j < l.length) (hv : l[j]? ≠ some v) :
    ((l.set j v).map BitVec.toNat).sum % 256 ≠ (l.map BitVec.toNat).sum % 256 := by
  have hsum := sum_set hj v
  have hne : l[j].toNat ≠ v.toNat := fun h =>
    hv (by rw [List.getElem?_eq_getElem hj, BitVec.eq_of_toNat_eq h])
  omega

section
variable {b st a i : Byte} {data : List Byte}

/-- A changed header byte fails the header check. -/
theorem checkResponse_set_header (hd : data.length ≤ 249) {j : Nat} {v : Byte} (hj : j < 2) (hv : v ≠ 0xFF) :
    checkResponse ((wireFrame b st data).set j v) a data.length i = .error (.framing .header) := by
  refine checkResponse_of_wrong_header hd (by simp) ?_ a i
  rw [wireFrame_eq_cons]
  obtain rfl | rfl : j = 0 ∨ j = 1 := by omega
  · exact .inl hv
  · exact .inr hv

/-- A changed address byte fails the address check, or, where that is not made, the checksum. -/
theorem checkResponse_set_address (hd : data.length ≤ 249) {v : Byte} (hv : v ≠ b)
    (ha : b = a ∨ (i = 0x01 ∧ a = 0xFE)) :
    checkResponse ((wireFrame b st data).set 2 v) a data.length i =
      .error (.framing (if i = 0x01 ∧ a = 0xFE then .checksum else .address)) := by
  have hset : (wireFrame b st data).set 2 v =
      0xFF :: 0xFF :: v :: BitVec.ofNat 8 (data.length + 2) :: frameTail b st data := by
    rw [wireFrame_eq_cons]
    rfl
  rw [hset]
  by_cases hping : i = 0x01 ∧ a = 0xFE
  · have hsum := sum_set_mod_ne (l := b :: BitVec.ofNat 8 (data.length + 2) :: frameTail b st data) (j := 0) (v := v)
      (by simp) (by simpa using hv.symm)
    rw [sum_frameTail, List.set_cons_zero] at hsum
    rw [checkResponse_of_length hd (.inr hping) (length_frameTail b st data), if_pos hsum, if_pos hping]
  · have hva : v ≠ a := by rwa [← ha.resolve_right hping]
    rw [checkResponse_of_sum hd _ _ (length_frameTail b st data), if_pos ⟨hping, hva⟩, if_neg hping]

/-- A changed length byte fails the length check. -/
theorem checkResponse_set_length (hd : data.length ≤ 249) {v : Byte} (hv : v ≠ BitVec.ofNat 8 (data.length + 2))
    (ha : b = a ∨ (i = 0x01 ∧ a = 0xFE)) :
    checkResponse ((wireFrame b st data).set 3 v) a data.length i = .error (.framing .length) := by
  have hset : (wireFrame b st data).set 3 v = 0xFF :: 0xFF :: b :: v :: frameTail b st data := by
    rw [wireFrame_eq_cons]
    rfl
  have hne : v.toNat ≠ data.length + 2 := fun h => hv (BitVec.eq_of_toNat_eq (h.trans (toNat_lengthByte hd).symm))
  rw [hset, checkResponse_of_sum hd _ _ (length_frameTail b st data), if_neg (fun ⟨hping, hb⟩ => ha.elim hb hping),
    if_pos hne]

/-- A changed status, data or checksum byte fails the checksum. -/
theorem checkResponse_set_tail (hd : data.length ≤ 249) {j : Nat} {v : Byte} (hj : 4 ≤ j) (hj' : j < data.length + 6)
    (hv : (wireFrame b st data)[j]? ≠ some v) (ha : b = a ∨ (i = 0x01 ∧ a = 0xFE)) :
    checkResponse ((wireFrame b st data).set j v) a data.length i = .error (.framing .checksum) := by
  obtain ⟨k, rfl⟩ := Nat.exists_eq_add_of_le' hj
  rw [wireFrame_eq_cons] at hv ⊢
  have hsum := sum_set_mod_ne (l := b :: BitVec.ofNat 8 (data.length + 2) :: frameTail b st data) (j := k + 2) (v := v)
    (by simp; omega) hv
  rw [sum_frameTail] at hsum
  exact (checkResponse_of_length hd ha (by simp)).trans (if_pos hsum)

/-- Changes of the address, status, data and checksum that leave the sum as it was are not seen. -/
theorem checkResponse_of_cancelling (hd : data.length ≤ 249) {b' st' chk chk' : Byte} {data' : List Byte}
    (ha : b' = a ∨ (i = 0x01 ∧ a = 0xFE)) (hl : data'.length = data.length)
    (hchk : (wireFrame b st data)[data.length + 5]? = some chk)
    (hsum : (b'.toNat + st'.toNat + (data'.map BitVec.toNat).sum + chk'.toNat) % 256 =
      (b.toNat + st.toNat + (data.map BitVec.toNat).sum + chk.toNat) % 256) :
    checkResponse ([0xFF, 0xFF, b', BitVec.ofNat 8 (data.length + 2), st'] ++ data' ++ [chk']) a data.length i =
      .ok { address := b', status := st', data := data' } := by
  have hframe := sum_frameTail b st data
  simp only [wireFrame_eq_cons, frameTail, List.cons_append, List.getElem?_cons_succ, List.getElem?_concat_length,
    Option.some.injEq] at hchk hframe
  rw [hchk] at hframe
  have hpass : ((b' :: BitVec.ofNat 8 (data.length + 2) :: (st' :: data' ++ [chk'])).map BitVec.toNat).sum % 256 =
      255 := by
    simp only [List.cons_append, List.map_cons, List.map_append, List.map_nil, List.sum_cons, List.sum_append,
      List.sum_nil] at hframe ⊢
    omega
  refine (checkResponse_of_length hd ha (t := st' :: data' ++ [chk']) (by simp [hl])).trans ?_
  rw [if_neg (not_not_intro hpass)]
  simp [← hl]

end

/-- Settles O18: each changed position fails its own check, by the lemma for that position, and what leaves the sum as
it was is accepted. -/
theorem singleByteErrorsAreReported : Obligations.SingleByteErrorsAreReported := by
  unfold Obligations.SingleByteErrorsAreReported
  intro s b st data r hd hlen hrx ha hr
  have rejects : ∀ c, r.length = data.length + 6 → checkResponse r s.aAddr data.length s.aInstr = .error (.framing c) →
      ∃ t, exec .decode s = .next t ∧ t.err = 0x02 ∧ t.esub = c.code ∧ t.sv = false ∧ t.result = 0 :=
    fun c hl hc => decode_rejects (c := .framing c) hr (hrx.trans hl.symm) (by rwa [hlen])
  refine ⟨fun j v hj hv h => ?header, fun j v hj hj' hv h => ?tail, fun v hv h => ?address, fun v hv h => ?length,
    fun b' st' data' chk chk' hb' hl hchk hsum h => ?cancelling⟩
  case header => exact rejects .header (by simp [h]) (h ▸ checkResponse_set_header hd hj hv)
  case tail => exact rejects .checksum (by simp [h]) (h ▸ checkResponse_set_tail hd hj hj' hv ha)
  case address =>
    have hfails := rejects _ (by simp [h]) (h ▸ checkResponse_set_address hd hv ha)
    rwa [apply_ite FramingCause.code] at hfails
  case length => exact rejects .length (by simp [h]) (h ▸ checkResponse_set_length hd hv ha)
  case cancelling =>
    have ha' : b' = s.aAddr ∨ (s.aInstr = 0x01 ∧ s.aAddr = 0xFE) := hb'.elim (fun e => e ▸ ha) .inr
    obtain ⟨t, ht, herr, hstatus, -, haddr, -⟩ := decode_accepts hr (by simp [h, hrx, hl])
      (by rw [h, hlen]; exact checkResponse_of_cancelling hd ha' hl hchk hsum)
    exact ⟨t, ht, herr, hstatus, haddr⟩

end Sys2Proof.Machine
end

section
/-! CKSUM, ENCODE and the frames that ENCODE and SR_XFER build: what each command can do, and the statements of
40_frame_codec.md about them. -/

namespace Sys2Proof.Machine

/-- Settles O12: the checksum's own formula, zero-extended. -/
theorem cksumOfHostBytes : Obligations.CksumOfHostBytes := by
  unfold Obligations.CksumOfHostBytes
  intro s
  have hchk : (checksum (s.hostBytes s.aLen.toNat)).setWidth 32 =
      BitVec.ofNat 32 (255 - ((s.hostBytes s.aLen.toNat).map BitVec.toNat).sum % 256) := by
    rw [checksum_eq_wireChecksum, wireChecksum, BitVec.setWidth_ofNat_of_le_of_lt (by decide) (by omega)]
  refine ⟨s.hostBytes s.aLen.toNat, s.drawCount + s.aLen.toNat, Memory.reads_read _ _ _ _, ?_⟩
  rw [← hchk]
  rfl

/-! ### ENCODE -/

theorem exec_encode_of_code {s : State} {op : WireOp} (h : s.aInstr = op.code) :
    exec .encode s = .next (s.encodeRequest op) := by
  simp only [exec, execEncode, h, ofCode?_code]

theorem exec_encode_unlisted {s : State} (h : WireOp.ofCode? s.aInstr = none) :
    exec .encode s = .next { s with result := 0, err := 0x04, esub := 0x06 } := by
  simp only [exec, execEncode, h]
  rfl

/-- Settles O13: the code selects the operation, and each outcome of its request is a law of ENCODE. -/
theorem encodeBuildsTheRequestFrame : Obligations.EncodeBuildsTheRequestFrame := by
  unfold Obligations.EncodeBuildsTheRequestFrame
  refine ⟨fun s hs => exec_encode_unlisted (ofCode?_eq_none hs), fun s op hs => ?_⟩
  rw [exec_encode_of_code hs]
  refine ⟨fun sub hf => congrArg Host.Outcome.next (encodeRequest_error hf), fun hf => ?_⟩
  obtain ⟨p, hp, hl, e⟩ := encodeRequest_ok hf
  exact ⟨p, _, hp, hl, congrArg Host.Outcome.next e⟩

/-- What ENCODE can do: report an INVALID_PARAM, or leave a frame in `TXBUF`. -/
theorem exec_encode_cases (s : State) :
    (∃ sub, exec .encode s = .next { s with result := 0, err := 0x04, esub := sub }) ∨
    ∃ (a c : Byte) (p : List Byte) (k : Nat), p.length ≤ 249 ∧ exec .encode s = .next { s with
      txbuf := s.txbuf.write 0 (wireFrame a c p), txlen := BitVec.ofNat 8 (p.length + 6),
      result := BitVec.ofNat 32 (p.length + 6), err := 0x00, esub := 0x00, drawCount := k } := by
  cases hc : WireOp.ofCode? s.aInstr with
  | none => exact .inl ⟨0x06, exec_encode_unlisted hc⟩
  | some op =>
    rw [exec_encode_of_code (code_of_ofCode? hc)]
    cases hf : requestFailure op s with
    | some sub => exact .inl ⟨sub, by rw [encodeRequest_error hf]⟩
    | none =>
      obtain ⟨p, -, hl, e⟩ := encodeRequest_ok hf
      exact .inr ⟨_, _, p, _, hl, by rw [e]⟩

/-! ### The length byte -/

/-- The byte 3 of `TXBUF` is the length `TXLEN` less 4 (R134). -/
def LengthByteRight (t : State) : Prop :=
  6 ≤ t.txlen.toNat ∧ ∃ len : Byte, t.txbuf.load 3 = some len ∧ len.toNat = t.txlen.toNat - 4

theorem toNat_frameLength {p : List Byte} (hp : p.length ≤ 249) :
    (BitVec.ofNat 8 (p.length + 6)).toNat = p.length + 6 := by
  rw [BitVec.toNat_ofNat, Nat.mod_eq_of_lt (by omega)]

theorem lengthByteRight_of_frame {t : State} {m : Memory} {a c : Byte} {p : List Byte} (hp : p.length ≤ 249)
    (hbuf : t.txbuf = m.write 0 (wireFrame a c p)) (hlen : t.txlen = BitVec.ofNat 8 (p.length + 6)) :
    LengthByteRight t := by
  have htx : t.txlen.toNat = p.length + 6 := by rw [hlen, toNat_frameLength hp]
  refine ⟨by omega, BitVec.ofNat 8 (p.length + 2), ?_, ?_⟩
  · rw [hbuf, Memory.holds_write m _ 3 (by simp), wireFrame_eq_cons]
    rfl
  · rw [toNat_lengthByte hp, htx]
    omega

theorem encode_lengthByteRight (s : State) : After (fun t => t.err = 0x00 → LengthByteRight t) (exec .encode s) := by
  rcases exec_encode_cases s with ⟨sub, e⟩ | ⟨a, c, p, k, hp, e⟩
  · rw [e]
    exact .next fun herr => absurd herr (by decide : (0x04 : Byte) ≠ 0x00)
  · rw [e]
    exact .next fun _ => lengthByteRight_of_frame hp rfl rfl

theorem srXfer_lengthByteRight (s : State) : After (fun t => t.err = 0x00 → LengthByteRight t) (exec .srXfer s) := by
  change After _ (.next s.syncReadTransfer)
  rcases syncReadTransfer_cases s with ⟨c, -, e⟩ | ⟨-, hcount, ids, arrived, k, hids, e⟩
  · rw [e]
    exact .next fun herr => absurd herr c.code_ne
  · rw [e]
    exact .next fun _ => lengthByteRight_of_frame (p := s.aReg :: s.srL :: ids) (by simp [hids.1]; omega) rfl
      (by simp [hids.1])

/-- Settles O14: ENCODE and SR_XFER end OK only with a frame in `TXBUF`, whose byte 3 is its length byte. -/
theorem frameLengthInvariant : Obligations.FrameLengthInvariant := by
  unfold Obligations.FrameLengthInvariant
  rintro i s t (rfl | rfl) ht herr
  · exact encode_lengthByteRight s t ht herr
  · exact srXfer_lengthByteRight s t ht herr

end Sys2Proof.Machine
end

section
/-! What ENCODE, H2B, RECV and DECODE leave unchanged. -/

namespace Sys2Proof.Machine

variable {s t : State}

/-! ### The shared shape of the frames -/

/-- Where only one buffer changes, and only its first `n` bytes. -/
theorem buffersKeptOutside_of {b : Buf} {n : Nat} (hother : ∀ b', b' ≠ b → t.buf b' = s.buf b')
    (hb : ∀ i, n ≤ i → (t.buf b).load i = (s.buf b).load i) : BuffersKeptOutside b n s t := by
  intro b' i h
  by_cases e : b' = b
  · subst e
    exact hb i (h.resolve_left (not_not_intro rfl))
  · rw [hother b' e]

/-- Where no buffer changes, none changes outside a part of one. -/
theorem buffersKeptOutside_refl (hbuf : ∀ b, t.buf b = s.buf b) (b : Buf) (n : Nat) : BuffersKeptOutside b n s t :=
  buffersKeptOutside_of (fun b' _ => hbuf b') (fun i _ => by rw [hbuf])

/-! ### The frame of each command -/

theorem encode_frame (s : State) : After (fun t => BuffersKeptOutside .txbuf t.txlen.toNat s t ∧ OutsideKept s t ∧
    StreamsKept s t ∧ RegsKept [.result, .err, .esub, .txlen] s t) (exec .encode s) := by
  rcases exec_encode_cases s with ⟨sub, e⟩ | ⟨a, c, p, k, hp, e⟩
  · rw [e]
    exact .next ⟨buffersKeptOutside_refl (fun b => by cases b <;> rfl) _ _, ⟨rfl, rfl, rfl⟩, ⟨rfl, rfl, rfl⟩,
      fun r => by cases r <;> simp [State.reg, State.flags]⟩
  · rw [e]
    refine .next ⟨buffersKeptOutside_of (fun b => by cases b <;> simp [State.buf]) (fun i hi => ?tail),
      ⟨rfl, rfl, rfl⟩, ⟨rfl, rfl, rfl⟩, fun r => by cases r <;> simp [State.reg, State.flags]⟩
    exact Memory.load_write_zero_ge _ (by simpa [toNat_frameLength hp] using hi)

/-- What H2B can do: report BAD_INDEX, or store two bytes (R231). -/
theorem exec_h2b_cases (s : State) :
    exec .h2b s = .next { s with result := 0, err := 0x04, esub := 0x04 } ∨
    ∃ x y : Byte, exec .h2b s = .next { s with
      hbuf := s.hbuf.write s.aIdx.toNat [x, y], result := 2, err := 0x00, esub := 0x00 } := by
  by_cases h : 254 < s.aIdx.toNat
  · exact .inl (by simp only [exec, execH2b, if_pos h]; rfl)
  · exact .inr ⟨_, _, by simp only [exec, execH2b, if_neg h]; rfl⟩

theorem h2b_frame (s : State) : After (fun t => (∀ b j, b ≠ .hbuf ∨ j < s.aIdx.toNat ∨ s.aIdx.toNat + 2 ≤ j →
    (t.buf b).load j = (s.buf b).load j) ∧ OutsideKept s t ∧ StreamsKept s t ∧ RegsKept [.result, .err, .esub] s t)
    (exec .h2b s) := by
  rcases exec_h2b_cases s with e | ⟨x, y, e⟩
  · rw [e]
    exact .next ⟨fun b j _ => by cases b <;> rfl, ⟨rfl, rfl, rfl⟩, ⟨rfl, rfl, rfl⟩,
      fun r => by cases r <;> simp [State.reg, State.flags]⟩
  · rw [e]
    refine .next ⟨fun b j hj => ?bytes, ⟨rfl, rfl, rfl⟩, ⟨rfl, rfl, rfl⟩,
      fun r => by cases r <;> simp [State.reg, State.flags]⟩
    cases b
    case hbuf =>
      have hout := hj.resolve_left (not_not_intro rfl)
      exact (Memory.load_write _ _ _ _).trans (if_neg (by simp only [List.length_cons, List.length_nil]; omega))
    all_goals rfl

theorem recv_frame (s : State) : After (fun t => BuffersKeptOutside .rxbuf t.rxlen.toNat s t ∧ OutsideKept s t ∧
    t.txout = s.txout ∧ RegsKept [.result, .err, .esub, .rxlen] s t) (exec .recv s) := by
  have hlen : (BitVec.ofNat 8 (s.rxTaken s.aLen.toNat).length).toNat = (s.rxTaken s.aLen.toNat).length :=
    toNat_length_of_le (by simp [State.rxTaken]; omega)
  refine .next ⟨buffersKeptOutside_of (fun b => by cases b <;> simp [State.buf]) (fun i hi => ?tail),
    ⟨rfl, rfl, rfl⟩, rfl, fun r => by cases r <;> simp [State.reg, State.flags]⟩
  exact Memory.load_write_zero_ge _ (by simpa [hlen] using hi)

/-- What a decode writes, on success and on failure: the data buffer up to `n`, and the registers R132 names. -/
theorem decodeEffect_stores (r : List Byte) (a : Byte) (n : Nat) (i : Byte) (s : State) :
    ∃ (m : Memory) (st addr e sub : Byte) (v : Bool) (w : Word), (∀ j, n ≤ j → m.load j = s.hbuf.load j) ∧
      decodeEffect r a n i s =
        { s with status := st, sv := v, rspAddr := addr, hbuf := m, result := w, err := e, esub := sub } := by
  rcases decodeEffect_cases r a n i s with ⟨-, e⟩ | ⟨c, -, e⟩
  · exact ⟨_, _, _, _, _, _, _, fun j hj => Memory.load_write_zero_ge _ ((List.length_take_le _ _).trans hj), e⟩
  · refine ⟨_, _, _, _, _, _, _, fun j hj => ?_, e⟩
    split
    · rfl
    · rw [Memory.load_forget, if_neg (by omega)]

theorem decode_frame (s : State) : After (fun t => BuffersKeptOutside .hbuf s.aLen.toNat s t ∧ OutsideKept s t ∧
    StreamsKept s t ∧ t.sra = s.sra ∧ t.pv = s.pv ∧
    RegsKept [.result, .err, .esub, .status, .flags, .rspAddr] s t) (exec .decode s) := by
  change After _ (.next (s.decodeReceived s.aAddr s.aLen.toNat s.aInstr))
  obtain ⟨m, st, addr, err, sub, v, w, hm, e⟩ := decodeEffect_stores (s.rxbuf.read s.drawCount 0 s.rxlen.toNat)
    s.aAddr s.aLen.toNat s.aInstr s
  rw [decodeReceived_eq, e]
  exact .next ⟨buffersKeptOutside_of (fun b => by cases b <;> simp [State.buf]) hm, ⟨rfl, rfl, rfl⟩, ⟨rfl, rfl, rfl⟩,
    rfl, rfl, fun r => by cases r <;> simp [State.reg]⟩

/-- Settles O50: the frame of each of the four commands. -/
theorem frameOfStoringCommands : Obligations.FrameOfStoringCommands := by
  unfold Obligations.FrameOfStoringCommands
  exact ⟨encode_frame, h2b_frame, recv_frame, decode_frame⟩

end Sys2Proof.Machine
end

section
/-! SEND, FLUSH_RX and RECV: each is its one stream operation, and the registers R160 to R162 name. -/

namespace Sys2Proof.Machine

/-- Settles O25: the frame is the reading of `TXBUF[0..TXLEN-1]`, one of those R104 allows. -/
theorem sendTransmitsTheFrame : Obligations.SendTransmitsTheFrame := by
  unfold Obligations.SendTransmitsTheFrame
  intro s
  exact ⟨s.txbuf.read s.drawCount 0 s.txlen.toNat, s.drawCount + s.txlen.toNat, Memory.reads_read _ _ _ _, rfl⟩

/-- Settles O26: the flush is the one stream operation of the command. -/
theorem flushDiscardsPendingInput : Obligations.FlushDiscardsPendingInput := by
  unfold Obligations.FlushDiscardsPendingInput
  exact fun _ => rfl

/-- A listed answer of the environment is what arrives during the next `RxTake` (R16). -/
theorem arrivals_of_draws {s : State} {a : List Byte} {rest : List (List Byte)} (h : s.draws = a :: rest) :
    s.arrivals = a := by
  simp only [State.arrivals, h]

/-- Settles O27: the bytes taken are the first `A_LEN` of the queue with the arrivals behind it. -/
theorem recvTakesQueuedBytesFirst : Obligations.RecvTakesQueuedBytesFirst := by
  unfold Obligations.RecvTakesQueuedBytesFirst
  intro s
  have hlen : ((s.rxq ++ s.arrivals).take s.aLen.toNat).length ≤ 255 :=
    (List.length_take_le _ _).trans (Nat.le_of_lt_succ s.aLen.isLt)
  exact ⟨s.arrivals, s.drawCount + 1, fun _ _ => arrivals_of_draws, hlen, rfl⟩

end Sys2Proof.Machine
end

section
/-! XACT and the wire instructions but SyncRead: which requests nothing answers, that those use no answer of the
environment, and the statements of 41_transactions.md about the outcome of a transaction. -/

namespace Sys2Proof.Machine

variable {op : WireOp} {s : State}

/-! ### The outcomes of a request -/

/-- Settles O19: the instruction runs the transaction, whose answered form is a law. -/
theorem answeredTransaction : Obligations.AnsweredTransaction := by
  unfold Obligations.AnsweredTransaction
  intro s op i n hi hf hn
  have ho : op ≠ .syncread := by
    rintro rfl
    cases hn
  obtain ⟨-, p, arrived, k, hp, -, harrived, e⟩ := transact_answered hf hn
  exact ⟨p, arrived, k, hp, harrived, (exec_transact hi ho).trans (congrArg _ e)⟩

/-- Settles O20: the instruction runs the transaction, whose silent form is a law. -/
theorem silentTransaction : Obligations.SilentTransaction := by
  unfold Obligations.SilentTransaction
  intro s op i hi ho hf hn
  obtain ⟨p, hp, -, e⟩ := transact_silent ho hf hn
  exact ⟨p, _, hp, (exec_transact hi ho).trans (congrArg _ e)⟩

/-- The codes of the operations that XACT runs (R170). -/
theorem code_mem_of_ne_syncread (ho : op ≠ .syncread) :
    op.code ∈ ([0x01, 0x02, 0x03, 0x04, 0x05, 0x83] : List Byte) := by
  cases op
  case syncread => exact absurd rfl ho
  all_goals decide

/-- Settles O21: a failing check refuses the transaction, and XACT refuses every code that is none of the six. -/
theorem refusedRequestSendsNothing : Obligations.RefusedRequestSendsNothing := by
  unfold Obligations.RefusedRequestSendsNothing
  refine ⟨fun s op i sub hi ho hf => (exec_transact hi ho).trans (congrArg _ (transact_error ho hf)), fun s hs => ?_⟩
  rcases exec_xact_cases s with e | ⟨op, ho, hcode, -⟩
  · exact e
  · exact absurd (hcode ▸ code_mem_of_ne_syncread ho) hs

/-- Settles O22: of the outcomes of a Read, only the accepted response ends OK, and that has the exact count. -/
theorem readExactness : Obligations.ReadExactness := by
  unfold Obligations.ReadExactness
  intro s t hs ht
  rw [exec_transact (op := .read) (.inr ⟨rfl, hs⟩) (by decide), Host.Outcome.next.injEq] at ht
  subst ht
  rcases transact_cases (op := .read) s (by decide) with
    ⟨sub, -, e⟩ | ⟨p, k, -, -, ⟨hn, -⟩ | ⟨n, arrived, r, hn, hn249, -, ⟨hpass, hlen, e⟩ | ⟨c, -, e⟩⟩⟩
  case inl =>
    rw [e]
    exact .inr ⟨(by decide : (0x04 : Byte) ≠ 0x00), rfl⟩
  case inr.inl => cases hn
  case inr.inr.inl =>
    cases hn
    rw [e]
    refine .inl ⟨rfl, BitVec.ofNat_toNat _ _, r, (toNat_length_of_le (by omega)).trans hlen, hlen,
      Memory.holds_write _ r, hpass, fun j hj => ?data⟩
    change (s.hbuf.write 0 _).load j = _
    rw [Memory.load_write_zero, if_pos (by simp; omega), List.getElem?_take_of_lt hj, List.getElem?_drop, Nat.add_comm]
  case inr.inr.inr =>
    rw [e]
    exact .inr ⟨c.code_ne, rfl⟩

/-- Settles O24: a refused request leaves the streams, and any other transmits the frame it places and then performs
at most one `RxTake`. -/
theorem oneRequestInFlight : Obligations.OneRequestInFlight := by
  unfold Obligations.OneRequestInFlight
  intro s t ht
  rcases exec_xact_cases s with e | ⟨op, ho, -, e⟩ <;> rw [e, Host.Outcome.next.injEq] at ht <;> subst ht
  · exact .inl ⟨rfl, rfl, rfl⟩
  have hlen : ∀ {p : List Byte}, p.length ≤ 249 →
      (wireFrame (requestAddress op s) op.code p).length = (BitVec.ofNat 8 (p.length + 6)).toNat :=
    fun hp => (length_wireFrame _ _ _).trans (toNat_frameLength hp).symm
  rcases transact_cases s ho with ⟨sub, -, e⟩ | ⟨p, k, -, hp, ⟨-, e⟩ | ⟨_, _, _, -, -, -, ⟨-, -, e⟩ | ⟨_, -, e⟩⟩⟩ <;>
    rw [e]
  · exact .inl ⟨rfl, rfl, rfl⟩
  · exact .inr ⟨_, rfl, Memory.holds_write _ _, hlen hp, .inl rfl⟩
  · exact .inr ⟨_, rfl, Memory.holds_write _ _, hlen hp, .inr rfl⟩
  · exact .inr ⟨_, rfl, Memory.holds_write _ _, hlen hp, .inr rfl⟩

/-! ### Requests that nothing answers -/

/-- Nothing answers a SyncWrite, and nothing a write-class request to the broadcast address (R91). -/
theorem responseLength_of_silent_code (hs : s.aInstr = op.code) (h : s.aInstr = 0x83 ∨
    (s.aInstr = 0x03 ∨ s.aInstr = 0x04 ∨ s.aInstr = 0x05) ∧ s.aAddr = 0xFE) : responseLength op s = none := by
  rw [hs] at h
  cases op
  case syncread | syncwrite => rfl
  case ping | read => exact absurd h (by simp [WireOp.code])
  case write | bwrite | btrigger => exact if_pos (h.resolve_left (by decide)).2

theorem request_draws (op : WireOp) (s : State) (d : List (List Byte)) :
    request op { s with draws := d } = request op s := by
  cases op <;> rfl

/-- A transaction that nothing answers uses no answer of the environment (R172). -/
theorem transact_draws_of_silent (ho : op ≠ .syncread) (hn : responseLength op s = none) (d : List (List Byte)) :
    State.transact op { s with draws := d } = { s.transact op with draws := d } := by
  cases hf : requestFailure op s with
  | some sub =>
    have hf' : requestFailure op { s with draws := d } = some sub := hf
    rw [transact_error ho hf, transact_error ho hf']
  | none =>
    obtain ⟨p, hp, -⟩ := request_ok hf
    simp only [State.transact, if_neg ho, request_draws, hp, expect_eq op s ho, hn]
    rfl

/-- Settles O23: XACT refuses, or runs a transaction that nothing answers. -/
theorem broadcastWriteSilence : Obligations.BroadcastWriteSilence := by
  unfold Obligations.BroadcastWriteSilence
  intro s d h
  obtain ⟨op, ho, hs⟩ : ∃ op : WireOp, op ≠ .syncread ∧ s.aInstr = op.code := by
    rcases h with h | ⟨h | h | h, -⟩
    exacts [⟨.syncwrite, by decide, h⟩, ⟨.write, by decide, h⟩, ⟨.bwrite, by decide, h⟩, ⟨.btrigger, by decide, h⟩]
  have hn := responseLength_of_silent_code hs h
  have hdraws : exec .xact { s with draws := d } = .next { s.transact op with draws := d } :=
    (exec_transact (s := { s with draws := d }) (.inr ⟨rfl, hs⟩) ho).trans
      (congrArg _ (transact_draws_of_silent ho hn d))
  refine ⟨s.transact op, exec_transact (.inr ⟨rfl, hs⟩) ho, ?_⟩
  rw [hdraws]
  cases hf : requestFailure op s with
  | some sub =>
    rw [transact_error ho hf]
    exact ⟨rfl, rfl, rfl, .inr rfl, rfl⟩
  | none =>
    obtain ⟨p, -, -, e⟩ := transact_silent ho hf hn
    rw [e]
    exact ⟨rfl, rfl, rfl, .inl rfl, rfl⟩

end Sys2Proof.Machine
end

section
/-! What a transaction leaves unchanged, by what answers its request. -/

namespace Sys2Proof.Machine

variable {i : Instr} {op : WireOp} {s t : State} {answer : Option Nat}

/-- What a transaction keeps, where `answer` is how many data bytes the response to its request has, if any. -/
structure TransactionFrame (answer : Option Nat) (s t : State) : Prop where
  txbuf : ∀ j, t.txlen.toNat ≤ j → t.txbuf.load j = s.txbuf.load j
  rxbuf : ∀ j, t.rxlen.toNat ≤ j → t.rxbuf.load j = s.rxbuf.load j
  hbuf : ∀ j, (∀ n, answer = some n → n ≤ j) → t.hbuf.load j = s.hbuf.load j
  unsent : t.txout = s.txout → t.txbuf = s.txbuf
  unanswered : answer = none ∨ t.txout = s.txout → t.rxbuf = s.rxbuf ∧ t.rxlen = s.rxlen ∧ t.hbuf = s.hbuf
  session : SessionUntouched s t
  outside : OutsideKept s t
  regs : RegsKept [.result, .err, .esub, .status, .flags, .rspAddr, .txlen, .rxlen] s t

/-- A refused request changes only the flag and the three result registers (R163). -/
theorem transactionFrame_refused (answer : Option Nat) (s : State) (sub : Byte) :
    TransactionFrame answer s { s with sv := false, result := 0, err := 0x04, esub := sub } where
  txbuf _ _ := rfl
  rxbuf _ _ := rfl
  hbuf _ _ := rfl
  unsent _ := rfl
  unanswered _ := ⟨rfl, rfl, rfl⟩
  session := ⟨rfl, rfl, rfl, rfl, rfl, rfl, rfl, rfl, rfl⟩
  outside := ⟨rfl, rfl, rfl⟩
  regs r := by cases r <;> simp [State.reg]

theorem txout_append_wireFrame_ne (q : List Byte) (a c : Byte) (p : List Byte) : q ++ wireFrame a c p ≠ q := by
  simp [wireFrame]

/-- The bytes beyond a frame in `TXBUF` are as before. -/
theorem load_write_wireFrame_of_ge (m : Memory) {a c : Byte} {p : List Byte} (hp : p.length ≤ 249) {j : Nat}
    (hj : (BitVec.ofNat 8 (p.length + 6)).toNat ≤ j) : (m.write 0 (wireFrame a c p)).load j = m.load j := by
  rw [toNat_frameLength hp] at hj
  exact Memory.load_write_zero_ge m (by rwa [length_wireFrame])

theorem transactionFrame_silent (ho : op ≠ .syncread) (hf : requestFailure op s = none)
    (hn : responseLength op s = none) : TransactionFrame none s (s.transact op) := by
  obtain ⟨p, -, hp, e⟩ := transact_silent ho hf hn
  rw [e]
  exact {
    txbuf := fun j hj => load_write_wireFrame_of_ge _ hp hj
    rxbuf := fun _ _ => rfl
    hbuf := fun _ _ => rfl
    unsent := fun h => absurd h (txout_append_wireFrame_ne _ _ _ _)
    unanswered := fun _ => ⟨rfl, rfl, rfl⟩
    session := ⟨rfl, rfl, rfl, rfl, rfl, rfl, rfl, rfl, rfl⟩
    outside := ⟨rfl, rfl, rfl⟩
    regs := fun r => by cases r <;> simp [State.reg] }

theorem transactionFrame_answered {n : Nat} (hf : requestFailure op s = none) (hn : responseLength op s = some n) :
    TransactionFrame (some n) s (s.transact op) := by
  obtain ⟨hn249, p, arrived, k, -, hp, -, e⟩ := transact_answered hf hn
  rw [e]
  generalize hr : arrived.take (n + 6) = r
  have hlen : (BitVec.ofNat 8 r.length).toNat = r.length :=
    toNat_length_of_le (by rw [← hr, List.length_take]; omega)
  obtain ⟨m, st, addr, err, sub, v, w, hm, e'⟩ := decodeEffect_stores r (requestAddress op s) n op.code { s with
    txbuf := s.txbuf.write 0 (wireFrame (requestAddress op s) op.code p), txlen := BitVec.ofNat 8 (p.length + 6),
    txout := s.txout ++ wireFrame (requestAddress op s) op.code p, rxbuf := s.rxbuf.write 0 r,
    rxlen := BitVec.ofNat 8 r.length, rxq := arrived.drop (n + 6), draws := s.draws.tail }
  rw [e']
  exact {
    txbuf := fun j hj => load_write_wireFrame_of_ge _ hp hj
    rxbuf := fun j hj => Memory.load_write_zero_ge _ (by simpa [hlen] using hj)
    hbuf := fun j hj => hm j (hj n rfl)
    unsent := fun h => absurd h (txout_append_wireFrame_ne _ _ _ _)
    unanswered := fun h => absurd (h.resolve_left nofun) (txout_append_wireFrame_ne _ _ _ _)
    session := ⟨rfl, rfl, rfl, rfl, rfl, rfl, rfl, rfl, rfl⟩
    outside := ⟨rfl, rfl, rfl⟩
    regs := fun r => by cases r <;> simp [State.reg] }

theorem transactionFrame_transact (ho : op ≠ .syncread) (s : State) :
    TransactionFrame (responseLength op s) s (s.transact op) := by
  cases hf : requestFailure op s with
  | some sub =>
    rw [transact_error ho hf]
    exact transactionFrame_refused _ s sub
  | none =>
    cases hn : responseLength op s with
    | none => exact transactionFrame_silent ho hf hn
    | some n => exact transactionFrame_answered hf hn

/-- The instructions that run a transaction: XACT, and those of the six wire operations. -/
theorem eq_xact_or_instr_of_mem
    (hi : i ∈ ([.xact, .ping, .read, .write, .bwrite, .btrigger, .syncwrite] : List Instr)) :
    i = .xact ∨ ∃ op : WireOp, op ≠ .syncread ∧ i = op.instr := by
  simp only [List.mem_cons, List.not_mem_nil, or_false] at hi
  rcases hi with h | h | h | h | h | h | h
  exacts [.inl h, .inr ⟨.ping, by decide, h⟩, .inr ⟨.read, by decide, h⟩, .inr ⟨.write, by decide, h⟩,
    .inr ⟨.bwrite, by decide, h⟩, .inr ⟨.btrigger, by decide, h⟩, .inr ⟨.syncwrite, by decide, h⟩]

/-- What those instructions can do: refuse the code, or run one transaction. -/
theorem exec_transaction_cases
    (hi : i ∈ ([.xact, .ping, .read, .write, .bwrite, .btrigger, .syncwrite] : List Instr)) (s : State) :
    exec i s = .next { s with sv := false, result := 0, err := 0x04, esub := 0x06 } ∨
    ∃ op : WireOp, op ≠ .syncread ∧ (i = op.instr ∨ i = .xact ∧ s.aInstr = op.code) ∧
      exec i s = .next (s.transact op) := by
  rcases eq_xact_or_instr_of_mem hi with rfl | ⟨op, ho, rfl⟩
  · exact (exec_xact_cases s).imp_right fun ⟨op, ho, hs, e⟩ => ⟨op, ho, .inr ⟨rfl, hs⟩, e⟩
  · exact .inr ⟨op, ho, .inl rfl, exec_transact (.inl rfl) ho⟩

/-- Only the response to a Read has data bytes (R91). -/
theorem responseLength_eq_some {n : Nat} (h : responseLength op s = some n) :
    op = .read ∧ n = s.aLen.toNat ∨ n = 0 := by
  cases op
  case read => exact .inl ⟨rfl, (Option.some.inj h).symm⟩
  case ping => exact .inr (Option.some.inj h).symm
  case write | bwrite | btrigger =>
    obtain ⟨-, rfl⟩ : s.aAddr ≠ 0xFE ∧ 0 = n := by simpa [responseLength] using h
    exact .inr rfl
  case syncread | syncwrite => cases h

/-- The requests that expect no response, by the instruction that runs them (R91). -/
theorem responseLength_of_silent_instr (hi : i = op.instr ∨ i = .xact ∧ s.aInstr = op.code)
    (h : i = .syncwrite ∨ (i ∈ ([.write, .bwrite, .btrigger] : List Instr) ∧ s.aAddr = 0xFE) ∨
      (i = .xact ∧ (s.aInstr = 0x83 ∨ s.aInstr ∈ ([0x03, 0x04, 0x05] : List Byte) ∧ s.aAddr = 0xFE))) :
    responseLength op s = none := by
  rcases hi with rfl | ⟨rfl, hs⟩
  · cases op
    case syncread | syncwrite => rfl
    case ping | read => exact absurd h (by simp [WireOp.instr])
    case write | bwrite | btrigger => exact if_pos (by simpa [WireOp.instr] using h)
  · exact responseLength_of_silent_code hs (by simpa using h)

/-- Settles O51: a transaction has the frame of its answer, and only a Read is answered with data. -/
theorem frameOfTransactions : Obligations.FrameOfTransactions := by
  unfold Obligations.FrameOfTransactions
  intro i s t hi ht
  obtain ⟨answer, hframe, hdata, hsilent⟩ : ∃ answer, TransactionFrame answer s t ∧
      (∀ n, answer = some n → (i = .read ∨ i = .xact ∧ s.aInstr = 0x02) ∧ n = s.aLen.toNat ∨ n = 0) ∧
      ((i = .syncwrite ∨ (i ∈ ([.write, .bwrite, .btrigger] : List Instr) ∧ s.aAddr = 0xFE) ∨
        (i = .xact ∧ (s.aInstr = 0x83 ∨ s.aInstr ∈ ([0x03, 0x04, 0x05] : List Byte) ∧ s.aAddr = 0xFE))) →
        answer = none) := by
    rcases exec_transaction_cases hi s with e | ⟨op, ho, hop, e⟩ <;> rw [e, Host.Outcome.next.injEq] at ht <;>
      subst ht
    · exact ⟨none, transactionFrame_refused none s 0x06, nofun, fun _ => rfl⟩
    · refine ⟨_, transactionFrame_transact ho s, fun n hn => ?_, responseLength_of_silent_instr hop⟩
      refine (responseLength_eq_some hn).imp_left fun ⟨hread, hlen⟩ => ⟨?_, hlen⟩
      subst hread
      exact hop
  refine ⟨hframe.txbuf, hframe.rxbuf, fun j hj => hframe.hbuf j fun n hn => ?data, hframe.unsent,
    fun h => hframe.unanswered ?unanswered, ?session, hframe.outside, ?sra, ?pv, hframe.regs⟩
  case data =>
    rcases hdata n hn with ⟨hread, rfl⟩ | rfl
    · exact hj.elim And.right fun h => absurd hread h
    · exact Nat.zero_le j
  case unanswered =>
    rcases h with h | h | h | h
    exacts [.inl (hsilent (.inl h)), .inl (hsilent (.inr (.inl h))), .inl (hsilent (.inr (.inr h))), .inr h]
  all_goals obtain ⟨hsra, hpv, -, -, -, -, -, hsrbuf, hpkt⟩ := hframe.session
  case session => exact fun j => ⟨by rw [hsrbuf], by rw [hpkt]⟩
  case sra => exact hsra
  case pv => exact hpv

end Sys2Proof.Machine
end

section
/-! The scanner: a candidate in a row of frames is the start of one, a frame that is cut short is never found, and the
statements about `FindHeader`, the loop of the scan and its resume points. -/

namespace Sys2Proof.Machine

/-! ### Candidates and the loop -/

/-- Settles O31: what a candidate is, put into the two outcomes of the search. -/
theorem findHeaderGivesTheFirstCandidate : Obligations.FindHeaderGivesTheFirstCandidate := by
  unfold Obligations.FindHeaderGivesTheFirstCandidate
  intro buf s
  refine ⟨fun h => ?some, ?none⟩
  case some =>
    simp only [findHeader_eq_some, ← isCandidate_iff, Bool.not_eq_true, and_assoc]
  case none =>
    simp only [findHeader_eq_none, ← isCandidate_iff, Bool.not_eq_true]

/-- A frame's bytes from its address to its last data byte, as the scan takes them apart (R194). -/
theorem take_drop_eq_body {buf : List Byte} {t : Byte} {h l : Nat} (hl : h + 5 + l < buf.length)
    (haddr : buf[h + 2]? = some t) (hlen : (buf.getD (h + 3) 0).toNat = l + 2) :
    (buf.drop (h + 2)).take (l + 3) =
      t :: BitVec.ofNat 8 (l + 2) :: buf.getD (h + 4) 0 :: (buf.drop (h + 5)).take l := by
  have hbyte : buf[h + 3] = BitVec.ofNat 8 (l + 2) := by
    rw [← hlen, List.getD_eq_getElem buf 0 (by omega), BitVec.ofNat_toNat, BitVec.setWidth_eq]
  rw [List.drop_eq_getElem_cons (by omega : h + 2 < buf.length), List.drop_eq_getElem_cons (by omega : h + 3 < _),
    List.drop_eq_getElem_cons (by omega : h + 4 < _), List.take_succ_cons, List.take_succ_cons, List.take_succ_cons,
    (List.getElem?_eq_some_iff.1 haddr).2, hbyte, List.getD_eq_getElem buf 0 (by omega)]

/-- Settles O32: the loop from a position is `scanAt`, whose tests of the buffer's length are the missing bytes. -/
theorem scanFollowsItsLoop : Obligations.ScanFollowsItsLoop := by
  unfold Obligations.ScanFollowsItsLoop
  intro t l buf
  refine ⟨scanAt t l buf, scan_eq_scanAt t l buf, fun s => ?_⟩
  rw [scanAt_eq]
  cases hh : findHeader buf s with
  | none => rfl
  | some h =>
    obtain ⟨-, hc, -⟩ := findHeader_eq_some.1 hh
    have haddr := getElem?_eq_some_iff_getD (isCandidate_lt hc) t
    dsimp only
    by_cases ht : buf[h + 2]? = some t
    case neg => rw [if_pos ht, if_pos (mt haddr.2 ht)]
    rw [if_neg (not_not_intro ht), if_neg (not_not_intro (haddr.1 ht))]
    by_cases hend : buf.length ≤ h + 3
    case pos => rw [if_pos hend, List.getElem?_eq_none hend]
    rw [if_neg hend, List.getElem?_eq_getElem (Nat.lt_of_not_le hend), List.getD_eq_getElem buf 0 (by omega)]
    dsimp only
    by_cases hlen : buf[h + 3].toNat = l + 2
    case neg => rw [if_pos hlen, if_pos hlen]
    rw [if_neg (not_not_intro hlen), if_neg (not_not_intro hlen)]
    by_cases hend' : buf.length ≤ h + 5 + l
    case pos => rw [if_pos hend', List.getElem?_eq_none hend']
    have hbody := take_drop_eq_body (Nat.lt_of_not_le hend') ht
      (by rwa [List.getD_eq_getElem buf 0 (by omega)])
    rw [if_neg hend', List.getElem?_eq_getElem (Nat.lt_of_not_le hend'), List.getD_eq_getElem buf 0 (n := h + 5 + l)
      (by omega), hbody, checksum_eq_wireChecksum]

/-- Settles O33: no candidate starts one or two bytes after another, so only one at `h + 3` tells `h + 4` apart. -/
theorem resumePoints : Obligations.ResumePoints := by
  unfold Obligations.ResumePoints
  refine ⟨fun buf h hh => ?_, by decide, by decide⟩
  obtain ⟨-, hc, -⟩ := findHeader_eq_some.1 hh
  have hx := not_address_ff_of_isCandidate hc
  have hno : ∀ g, h + 1 ≤ g → g < h + 3 → isCandidate buf g = false := fun g h1 h3 => by
    by_contra hg
    obtain ⟨hg0, hg1, -⟩ := (isCandidate_iff buf g).1 (Bool.eq_true_of_not_eq_false hg)
    obtain rfl | rfl : g = h + 1 ∨ g = h + 2 := by omega
    exacts [hx hg1, hx hg0]
  refine ⟨findHeader_congr (by omega) fun g h1 h2 => hno g h1 (by omega),
    findHeader_congr (by omega) fun g h1 h2 => hno g (by omega) h2, fun hne => (isCandidate_iff buf (h + 3)).1 ?_⟩
  by_contra hg
  refine hne (findHeader_congr (by omega) fun g h1 h2 => ?_).symm
  rwa [show g = h + 3 by omega, ← Bool.not_eq_true]

/-! ### A row of frames -/

/-- Nothing but `FF` stands at the second place: the list is empty, or a frame starts it. -/
def HeaderNext (R : List Byte) : Prop := ∀ x, R[1]? = some x → x = 0xFF

/-- No two `FF` stand in a row from byte 2 on (R202). -/
def NoInnerHeader (F : List Byte) : Prop := ∀ j, 2 ≤ j → ¬ (F[j]? = some 0xFF ∧ F[j + 1]? = some 0xFF)

theorem headerNext_nil : HeaderNext [] := fun _ h => by simp at h

theorem headerNext_wireFrame (a c : Byte) (p R : List Byte) : HeaderNext (wireFrame a c p ++ R) := fun x h => by
  simpa [wireFrame, eq_comm] using h

/-- In a frame before another, the only candidate is the start of the frame. -/
theorem eq_zero_of_isCandidate {a st : Byte} {data R : List Byte} (ha : a ≠ 0xFF)
    (hF : NoInnerHeader (wireFrame a st data)) (hR : HeaderNext R) {g : Nat} (hg : g < (wireFrame a st data).length)
    (hc : isCandidate (wireFrame a st data ++ R) g = true) : g = 0 := by
  obtain ⟨h0, h1, x, hx, hne⟩ := (isCandidate_iff _ _).1 hc
  by_contra hg0
  rw [List.getElem?_append_left hg] at h0
  by_cases hlast : g + 1 < (wireFrame a st data).length
  · rw [List.getElem?_append_left hlast] at h1
    obtain rfl | hg2 : g = 1 ∨ 2 ≤ g := by omega
    · exact ha (by simpa [wireFrame] using h1)
    · exact hF g hg2 ⟨h0, h1⟩
  · rw [List.getElem?_append_right (by omega), show g + 2 - (wireFrame a st data).length = 1 by omega] at hx
    exact hne (hR x hx)

/-- The frames of a raw buffer, one after another: address, status and data of each. -/
def frameRow (frames : List (Byte × Byte × List Byte)) : List Byte := frames.flatMap fun f => wireFrame f.1 f.2.1 f.2.2

theorem frameRow_cons (f : Byte × Byte × List Byte) (frames : List (Byte × Byte × List Byte)) :
    frameRow (f :: frames) = wireFrame f.1 f.2.1 f.2.2 ++ frameRow frames := List.flatMap_cons

theorem headerNext_frameRow (frames : List (Byte × Byte × List Byte)) {R : List Byte} (hR : HeaderNext R) :
    HeaderNext (frameRow frames ++ R) := by
  cases frames with
  | nil => exact hR
  | cons f frames =>
    rw [frameRow_cons, List.append_assoc]
    exact headerNext_wireFrame _ _ _ _

/-- Every candidate in a row of frames has the address of one of them. -/
theorem address_ne_of_isCandidate {frames : List (Byte × Byte × List Byte)} {R : List Byte} (hR : HeaderNext R)
    (hf : ∀ f ∈ frames, f.1 ≠ 0xFF ∧ NoInnerHeader (wireFrame f.1 f.2.1 f.2.2)) {t : Byte}
    (ht : t ∉ frames.map (fun f => f.1)) {g : Nat} (hg : g < (frameRow frames).length)
    (hc : isCandidate (frameRow frames ++ R) g = true) : (frameRow frames ++ R)[g + 2]? ≠ some t := by
  induction frames generalizing g with
  | nil => simp [frameRow] at hg
  | cons f frames ih =>
    obtain ⟨⟨ha, hF⟩, hfs⟩ := List.forall_mem_cons.1 hf
    rw [List.map_cons, List.mem_cons, not_or] at ht
    obtain ⟨hta, hts⟩ := ht
    rw [frameRow_cons, List.append_assoc] at hc ⊢
    by_cases hin : g < (wireFrame f.1 f.2.1 f.2.2).length
    · obtain rfl := eq_zero_of_isCandidate ha hF (headerNext_frameRow frames hR) hin hc
      simpa [wireFrame] using Ne.symm hta
    · obtain ⟨d, rfl⟩ := Nat.exists_eq_add_of_le (Nat.le_of_not_lt hin)
      rw [isCandidate_append] at hc
      rw [Nat.add_assoc, List.getElem?_append_right (by omega), Nat.add_sub_cancel_left]
      exact ih hfs hts (by rw [frameRow_cons, List.length_append] at hg; omega) hc

/-- The scan of a row of frames passes over those of other nodes. -/
theorem scan_frameRow_append {frames : List (Byte × Byte × List Byte)} {R : List Byte} (hR : HeaderNext R)
    (hf : ∀ f ∈ frames, f.1 ≠ 0xFF ∧ NoInnerHeader (wireFrame f.1 f.2.1 f.2.2)) {t : Byte}
    (ht : t ∉ frames.map (fun f => f.1)) (l : Nat) :
    scan t l (frameRow frames ++ R) = scanAt t l (frameRow frames ++ R) (frameRow frames).length :=
  (scan_eq_scanAt t l _).trans
    (scanAt_skip (Nat.zero_le _) fun _ _ hg hc => address_ne_of_isCandidate hR hf ht hg hc)

/-- From fewer than three bytes before the end on there is no candidate. -/
theorem scanAt_near_end {buf : List Byte} {s : Nat} (h : buf.length < s + 3) (t : Byte) (l : Nat) :
    scanAt t l buf s = .notFound := by
  have hnone : findHeader buf s = none := findHeader_eq_none.2 fun g hg => by
    by_contra hc
    have := isCandidate_lt (Bool.eq_true_of_not_eq_false hc)
    omega
  rw [scanAt_eq, hnone]

theorem scan_frameRow_absent {frames : List (Byte × Byte × List Byte)}
    (hf : ∀ f ∈ frames, f.1 ≠ 0xFF ∧ NoInnerHeader (wireFrame f.1 f.2.1 f.2.2)) {t : Byte}
    (ht : t ∉ frames.map (fun f => f.1)) (l : Nat) : scan t l (frameRow frames) = .notFound := by
  have h := scan_frameRow_append headerNext_nil hf ht l
  rw [List.append_nil] at h
  rw [h, scanAt_near_end (by omega)]

theorem scan_frameRow_mem {frames : List (Byte × Byte × List Byte)}
    (hf : ∀ f ∈ frames, f.1 ≠ 0xFF ∧ NoInnerHeader (wireFrame f.1 f.2.1 f.2.2))
    (hnodup : (frames.map (fun f => f.1)).Nodup) {t st : Byte} {data : List Byte} (hmem : (t, st, data) ∈ frames)
    {l : Nat} (hd : data.length = l) (hl : l ≤ 249) : ∃ h, scan t l (frameRow frames) = .found h st data := by
  obtain ⟨before, after, rfl⟩ := List.append_of_mem hmem
  have hrow : frameRow (before ++ (t, st, data) :: after) =
      frameRow before ++ (wireFrame t st data ++ frameRow after) :=
    List.flatMap_append
  have ht : t ∉ before.map (fun f => f.1) := fun h => by
    rw [List.map_append, List.nodup_append] at hnodup
    exact hnodup.2.2 t h t (by simp) rfl
  refine ⟨(frameRow before).length, ?_⟩
  rw [hrow, scan_frameRow_append (headerNext_wireFrame _ _ _ _) (fun f h => hf f (List.mem_append_left _ h)) ht,
    ← List.append_assoc]
  subst hd
  exact scanAt_frame _ _ (hf _ hmem).1 hl

/-! ### A frame that is cut short -/

/-- The loop, arrived at a frame of the node that the buffer cuts after its address byte, is truncated (R203). -/
theorem scanAt_cut_frame (P : List Byte) {t : Byte} (ht : t ≠ 0xFF) (st : Byte) {data : List Byte}
    (hd : data.length ≤ 249) {k : Nat} (h3 : 3 ≤ k) (hk : k < data.length + 6) :
    scanAt t data.length (P ++ (wireFrame t st data).take k) P.length = .truncated := by
  have hlen : (P ++ (wireFrame t st data).take k).length = P.length + k := by simp; omega
  have get : ∀ j, j < k → (P ++ (wireFrame t st data).take k)[P.length + j]? = (wireFrame t st data)[j]? :=
    fun j hj => by
      rw [List.getElem?_append_right (by omega), Nat.add_sub_cancel_left, List.getElem?_take_of_lt hj]
  have g2 : (P ++ (wireFrame t st data).take k)[P.length + 2]? = some t := get 2 (by omega)
  have hc : isCandidate (P ++ (wireFrame t st data).take k) P.length = true :=
    (isCandidate_iff _ _).2 ⟨get 0 (by omega), get 1 (by omega), t, g2, ht⟩
  rw [scanAt_eq, findHeader_eq_some.2 ⟨le_refl _, hc, fun g h1 h2 => absurd h1 (by omega)⟩]
  dsimp only
  rw [if_neg (not_not_intro ((getElem?_eq_some_iff_getD (isCandidate_lt hc) t).1 g2))]
  by_cases hk3 : k = 3
  · rw [if_pos (by omega)]
  have g3 : (P ++ (wireFrame t st data).take k)[P.length + 3]? = some (BitVec.ofNat 8 (data.length + 2)) :=
    get 3 (by omega)
  rw [if_neg (by omega), (getElem?_eq_some_iff_getD (by omega) _).1 g3, if_neg (not_not_intro (toNat_lengthByte hd)),
    if_pos (by omega)]

/-- The scan of a buffer that ends inside the frame of the node, where no earlier candidate is of that node. -/
theorem scan_cut_frame (earlier : List Byte) {t : Byte} (ht : t ≠ 0xFF) (st : Byte) {data : List Byte}
    (hd : data.length ≤ 249) {k : Nat} (hk : k < data.length + 6)
    (hearlier : ∀ h, h < earlier.length → isCandidate (earlier ++ (wireFrame t st data).take k) h = true →
      (earlier ++ (wireFrame t st data).take k)[h + 2]? ≠ some t) :
    scan t data.length (earlier ++ (wireFrame t st data).take k) = if 3 ≤ k then .truncated else .notFound := by
  rw [scan_eq_scanAt, scanAt_skip (Nat.zero_le earlier.length) fun h _ => hearlier h]
  split
  next h3 => exact scanAt_cut_frame earlier ht st hd h3 hk
  next h3 => exact scanAt_near_end (by simp; omega) t _

end Sys2Proof.Machine
end

section
/-! SR_EXTRACT: what it leaves for each result of the scan, and the statements about it. -/

namespace Sys2Proof.Machine

variable {s : State}

/-- What SR_EXTRACT leaves in a session where the scan fails: no packet, no status (R195). -/
def State.extractFailed (c : Cause) (k : Nat) (s : State) : State :=
  { s with
    srCur := 0, pv := false, sv := false, result := 0, pkt := Memory.unspecified, err := c.code, esub := c.sub,
    drawCount := k }

/-- What SR_EXTRACT leaves in a session, for each result of the scan (R195). -/
def State.extracted (k : Nat) (s : State) : ScanResult → State
  | .found _ status data =>
    { s with
      srCur := 0, pkt := s.pkt.write 0 data, pv := true, status := status, sv := true, rspAddr := s.aAddr,
      result := s.srL.setWidth 32, err := 0x00, esub := 0x00, drawCount := k }
  | .notFound => s.extractFailed (.framing .notFound) k
  | .truncated => s.extractFailed (.framing .truncated) k
  | .checksum => s.extractFailed (.framing .checksum) k

theorem exec_srExtract_active (ha : s.sra = true) : exec .srExtract s = .next
    (s.extracted (s.drawCount + s.srRawlen.toNat)
      (scan s.aAddr s.srL.toNat (s.srbuf.read s.drawCount 0 s.srRawlen.toNat))) := by
  refine (if_neg (by simp [ha])).trans ?_
  dsimp only [State.spend]
  cases scan s.aAddr s.srL.toNat (s.srbuf.read s.drawCount 0 s.srRawlen.toNat) <;> rfl

theorem exec_srExtract_inactive (ha : s.sra = false) : exec .srExtract s = .next { s with
    pv := false, sv := false, result := 0, pkt := Memory.unspecified, err := 0x06, esub := 0x01 } :=
  if_pos ha

/-- What SR_EXTRACT can do: report NOT_ACTIVE, or end as its scan does. -/
theorem exec_srExtract_cases (s : State) :
    (s.sra = false ∧ exec .srExtract s = .next { s with
      pv := false, sv := false, result := 0, pkt := Memory.unspecified, err := 0x06, esub := 0x01 }) ∨
    s.sra = true ∧ ∃ k res, exec .srExtract s = .next (s.extracted k res) := by
  rcases Bool.eq_false_or_eq_true s.sra with ha | ha
  · exact .inr ⟨ha, _, _, exec_srExtract_active ha⟩
  · exact .inl ⟨ha, exec_srExtract_inactive ha⟩

/-- SR_EXTRACT of known bytes. -/
theorem exec_srExtract_of_holds {raw : List Byte} (ha : s.sra = true) (hraw : s.srbuf.Holds raw)
    (hl : s.srRawlen.toNat = raw.length) :
    ∃ k, exec .srExtract s = .next (s.extracted k (scan s.aAddr s.srL.toNat raw)) :=
  ⟨_, by rw [exec_srExtract_active ha, hl, hraw.read_eq]⟩

/-- The raw buffer, its length and the session stay, whatever the scan gives. -/
theorem extracted_keeps_session (k : Nat) (res : ScanResult) :
    (s.extracted k res).sra = s.sra ∧ (s.extracted k res).srL = s.srL ∧ (s.extracted k res).srbuf = s.srbuf ∧
      (s.extracted k res).srRawlen = s.srRawlen := by
  cases res <;> exact ⟨rfl, rfl, rfl, rfl⟩

theorem extracted_srCur (k : Nat) (res : ScanResult) : (s.extracted k res).srCur = 0 := by
  cases res <;> rfl

theorem extracted_setSrbuf (k : Nat) (m : Memory) (res : ScanResult) :
    State.extracted k { s with srbuf := m } res = { s.extracted k res with srbuf := m } := by
  cases res <;> rfl

/-- Settles O35: every candidate in a row of frames is the start of one, so the scan reaches the frame of the node, and
passes over every frame when none is of the node. -/
theorem extractionIndependence : Obligations.ExtractionIndependence := by
  unfold Obligations.ExtractionIndependence
  intro s frames ha hl hframes hnodup hraw hlen
  obtain ⟨k, e⟩ := exec_srExtract_of_holds ha hraw hlen
  change exec .srExtract s = .next (s.extracted k (scan s.aAddr s.srL.toNat (frameRow frames))) at e
  have hf : ∀ f ∈ frames, f.1 ≠ 0xFF ∧ NoInnerHeader (wireFrame f.1 f.2.1 f.2.2) := fun f h => (hframes f h).2
  obtain ⟨hsra, hsrL, hsrbuf, hrawlen⟩ :=
    extracted_keeps_session (s := s) k (scan s.aAddr s.srL.toNat (frameRow frames))
  refine ⟨_, e, ⟨hsra.trans ha, hsrL, hsrbuf, hrawlen⟩, fun st data hmem => ?found, fun habsent => ?absent⟩
  case found =>
    have hd : data.length = s.srL.toNat := (hframes _ hmem).1
    obtain ⟨h, hscan⟩ := scan_frameRow_mem hf hnodup hmem hd hl
    rw [hscan]
    refine ⟨rfl, rfl, rfl, rfl, rfl, rfl, rfl, fun j hj => ?_⟩
    rw [State.byteAt, if_pos (by simp [State.inValidPart, State.extracted, hj])]
    exact Memory.holds_write s.pkt data j (hd ▸ hj)
  case absent =>
    rw [scan_frameRow_absent hf habsent]
    exact ⟨rfl, rfl, rfl, rfl⟩

/-- Settles O34: the machine's reading of the raw buffer is one of those R104 allows, and each result has its state. -/
theorem extractFollowsTheScan : Obligations.ExtractFollowsTheScan := by
  unfold Obligations.ExtractFollowsTheScan
  intro s
  refine ⟨exec_srExtract_inactive, fun ha => ?active, fun hinv t ht => ?cursor⟩
  case active =>
    refine ⟨s.srbuf.read s.drawCount 0 s.srRawlen.toNat, s.drawCount + s.srRawlen.toNat, Memory.reads_read _ _ _ _, ?_⟩
    rw [exec_srExtract_active ha]
    cases scan s.aAddr s.srL.toNat (s.srbuf.read s.drawCount 0 s.srRawlen.toNat) <;> rfl
  case cursor =>
    rcases exec_srExtract_cases s with ⟨ha, e⟩ | ⟨-, k, res, e⟩ <;> rw [e, Host.Outcome.next.injEq] at ht <;> subst ht
    · obtain ⟨-, -, -, -, hcur, -⟩ := hinv.1 ha
      exact hcur
    · exact extracted_srCur k res

/-- SR_EXTRACT does not depend on, or change, the bytes at and above `SR_RAWLEN` (R203). -/
theorem exec_srExtract_congr {t : State} {m : Memory} (hm : ∀ j, j < s.srRawlen.toNat → m.load j = s.srbuf.load j)
    (ht : exec .srExtract s = .next t) : exec .srExtract { s with srbuf := m } = .next { t with srbuf := m } := by
  rcases Bool.eq_false_or_eq_true s.sra with ha | ha
  · have hread : m.read s.drawCount 0 s.srRawlen.toNat = s.srbuf.read s.drawCount 0 s.srRawlen.toNat :=
      Memory.read_congr _ fun j hj => by rw [Nat.zero_add, hm j hj]
    rw [exec_srExtract_active ha, Host.Outcome.next.injEq] at ht
    rw [exec_srExtract_active (s := { s with srbuf := m }) ha, extracted_setSrbuf]
    dsimp only
    rw [hread, ht]
  · rw [exec_srExtract_inactive ha, Host.Outcome.next.injEq] at ht
    rw [exec_srExtract_inactive (s := { s with srbuf := m }) ha, ← ht]

/-- Settles O36: the scan of a cut frame, and that a reading covers the bytes below `SR_RAWLEN` alone. -/
theorem truncationSafety : Obligations.TruncationSafety := by
  unfold Obligations.TruncationSafety
  refine ⟨?_, fun s t m hm ht => exec_srExtract_congr hm ht⟩
  intro s st data earlier k raw ha hff hd hd249 hk hraw hlen hearlier
  obtain ⟨n, e⟩ := exec_srExtract_of_holds ha hraw hlen
  rw [← hd, scan_cut_frame earlier hff st hd249 hk fun h hh hc haddr => ?earlier] at e
  case earlier =>
    obtain ⟨h0, h1, -⟩ := (isCandidate_iff _ h).1 hc
    exact hearlier h hh haddr ⟨h0, h1⟩
  refine ⟨_, e, ?_⟩
  by_cases h3 : 3 ≤ k
  · rw [if_pos h3, if_pos h3]
    exact ⟨rfl, rfl, rfl, rfl, rfl⟩
  · rw [if_neg h3, if_neg h3]
    exact ⟨rfl, rfl, rfl, rfl, rfl⟩

end Sys2Proof.Machine
end

section
/-! SR_BEGIN, SR_XFER, the sequential decoders and SR_END: the exact next state of each, with and without a session. -/

namespace Sys2Proof.Machine

variable {s : State}

/-! ### SR_BEGIN and SR_XFER -/

theorem exec_srBegin_active (ha : s.sra = true) :
    exec .srBegin s = .next { s with result := 0, err := 0x06, esub := 0x02 } :=
  if_pos ha

/-- SR_BEGIN when every check of R191 passes. -/
theorem exec_srBegin_ok (ha : s.sra = false) (h0 : s.aCnt ≠ 0) (hl : s.aLen.toNat ≤ 249)
    (hcap : s.aCnt.toNat * (s.aLen.toNat + 6) ≤ s.srBufCap.toNat) : exec .srBegin s = .next { s with
      sra := true, pv := false, srN := s.aCnt, srL := s.aLen,
      srSize := BitVec.ofNat 16 (s.aCnt.toNat * (s.aLen.toNat + 6)), srRawlen := 0, srCur := 0,
      result := BitVec.ofNat 32 (s.aCnt.toNat * (s.aLen.toNat + 6)), err := 0x00, esub := 0x00 } := by
  have hactive : ¬ s.sra = true := by simp [ha]
  exact (if_neg hactive).trans ((if_neg h0).trans ((if_neg (Nat.not_lt.2 hl)).trans (if_neg (Nat.not_lt.2 hcap))))

/-- SR_BEGIN without a session, for each check of R191 that can be the first to fail. -/
theorem exec_srBegin_inactive_fails (ha : s.sra = false) :
    (s.aCnt = 0 → exec .srBegin s = .next { s with result := 0, err := 0x04, esub := 0x03 }) ∧
    (s.aCnt ≠ 0 → 249 < s.aLen.toNat → exec .srBegin s = .next { s with result := 0, err := 0x04, esub := 0x01 }) ∧
    (s.aCnt ≠ 0 → s.aLen.toNat ≤ 249 → s.srBufCap.toNat < s.aCnt.toNat * (s.aLen.toNat + 6) →
      exec .srBegin s = .next { s with result := 0, err := 0x03, esub := 0x00 }) := by
  have hactive : ¬ s.sra = true := by simp [ha]
  exact ⟨fun h0 => (if_neg hactive).trans (if_pos h0),
    fun h0 hl => (if_neg hactive).trans ((if_neg h0).trans (if_pos hl)),
    fun h0 hl hcap =>
      (if_neg hactive).trans ((if_neg h0).trans ((if_neg (Nat.not_lt.2 hl)).trans (if_pos hcap)))⟩

/-- Settles O28: the checks in the order of the command; a size that fits the buffer fits its register. -/
theorem srBeginStartsASession : Obligations.SrBeginStartsASession := by
  unfold Obligations.SrBeginStartsASession
  intro s
  refine ⟨exec_srBegin_active, fun ha => (exec_srBegin_inactive_fails ha).1,
    fun ha => (exec_srBegin_inactive_fails ha).2.1, fun ha => (exec_srBegin_inactive_fails ha).2.2,
    fun ha h0 hl hcap =>
      ⟨_, exec_srBegin_ok ha h0 hl hcap, rfl, rfl, rfl, rfl, ?size, rfl, rfl, ?result, rfl, rfl, rfl⟩⟩
  all_goals have hlt := s.srBufCap.isLt
  case size => exact (BitVec.toNat_ofNat _ _).trans (Nat.mod_eq_of_lt (by omega))
  case result => exact (BitVec.toNat_ofNat _ _).trans (Nat.mod_eq_of_lt (by omega))

theorem exec_srXfer_inactive (ha : s.sra = false) :
    exec .srXfer s = .next { s with result := 0, err := 0x06, esub := 0x01 } :=
  congrArg Host.Outcome.next (if_pos ha)

/-- Settles O29: the checks in the order of the command, and the exchange that passes them. -/
theorem srXferFillsTheRawBuffer : Obligations.SrXferFillsTheRawBuffer := by
  unfold Obligations.SrXferFillsTheRawBuffer
  intro s
  have hactive : s.sra = true → ¬ s.sra = false := fun ha => by simp [ha]
  refine ⟨exec_srXfer_inactive, fun ha h0 => congrArg Host.Outcome.next ?zero,
    fun ha h247 => congrArg Host.Outcome.next ?long, fun ha h0 h247 => ?ok⟩
  case zero => exact (if_neg (hactive ha)).trans (if_pos (by rw [h0]; rfl))
  case long => exact (if_neg (hactive ha)).trans ((if_neg (by omega)).trans (if_pos h247))
  case ok =>
    obtain ⟨ids, arrived, k, hids, harrived, e⟩ := syncReadTransfer_ok ha h0 h247
    exact ⟨ids, arrived, k, hids, harrived, congrArg _ e⟩

/-! ### The sequential decoders -/

theorem exec_srNextByte_exhausted (h : s.pv = false ∨ s.srL.toNat ≤ s.srCur.toNat) :
    exec .srNextByte s = .next { s with result := 0xFFFFFFFF, err := 0x07, esub := 0x00 } :=
  if_pos h

theorem exec_srNextWord_exhausted (h : s.pv = false ∨ s.srL.toNat < s.srCur.toNat + 2) :
    exec .srNextWord s = .next { s with result := 0xFFFFFFFF, err := 0x07, esub := 0x00 } :=
  if_pos h

/-- The cursor past the bytes a decoder takes. -/
theorem ofNat_toNat_add (c : Byte) (n : Nat) : BitVec.ofNat 8 (c.toNat + n) = c + BitVec.ofNat 8 n := by
  rw [BitVec.ofNat_add, BitVec.ofNat_toNat, BitVec.setWidth_eq]

/-- SR_NEXT_BYTE where a byte is left (R197). -/
theorem exec_srNextByte_ok (hp : s.pv = true) (hc : s.srCur.toNat < s.srL.toNat) :
    ∃ b k, s.pkt.Reads s.srCur.toNat 1 [b] ∧ exec .srNextByte s = .next { s with
      result := b.setWidth 32, srCur := s.srCur + 1, err := 0x00, esub := 0x00, drawCount := k } := by
  refine ⟨_, s.drawCount + 1, s.pkt.reads_read s.drawCount s.srCur.toNat 1, (if_neg ?_).trans ?_⟩
  · simp [hp, hc]
  · rw [ofNat_toNat_add]
    rfl

/-- SR_NEXT_WORD where two bytes are left (R198). -/
theorem exec_srNextWord_ok (hp : s.pv = true) (hc : s.srCur.toNat + 2 ≤ s.srL.toNat) :
    ∃ b0 b1 k, s.pkt.Reads s.srCur.toNat 2 [b0, b1] ∧ exec .srNextWord s = .next { s with
      result := BitVec.ofInt 32
        (smDecode (pairToWord b0 b1 (s.ctrl.getLsbD 0)) (s.aSbit.extractLsb' 0 4).toNat (s.aSbit.getLsbD 7)),
      srCur := s.srCur + 2, err := 0x00, esub := 0x00, drawCount := k } := by
  refine ⟨_, _, s.drawCount + 2, s.pkt.reads_read s.drawCount s.srCur.toNat 2, (if_neg ?_).trans ?_⟩
  · simp [hp, hc]
  · rw [ofNat_toNat_add, State.signBit_eq_extract]
    rfl

/-- Settles O38: the two outcomes of SR_NEXT_BYTE. -/
theorem nextByteConsumesThePacket : Obligations.NextByteConsumesThePacket := by
  unfold Obligations.NextByteConsumesThePacket
  exact fun _ => ⟨exec_srNextByte_exhausted, exec_srNextByte_ok⟩

/-- Settles O39: the two outcomes of SR_NEXT_WORD. -/
theorem nextWordConsumesThePacket : Obligations.NextWordConsumesThePacket := by
  unfold Obligations.NextWordConsumesThePacket
  exact fun _ => ⟨exec_srNextWord_exhausted, exec_srNextWord_ok⟩

/-! ### SR_END, and the session commands without a session -/

theorem exec_srEnd_active (ha : s.sra = true) : exec .srEnd s = .next { s with
    sra := false, pv := false, srN := 0, srL := 0, srSize := 0, srRawlen := 0, srCur := 0,
    srbuf := Memory.unspecified, pkt := Memory.unspecified, result := 0, err := 0x00, esub := 0x00 } := by
  simp only [exec, execSrEnd, if_pos ha]
  rfl

theorem exec_srEnd_inactive (ha : s.sra = false) :
    exec .srEnd s = .next { s with result := 0, err := 0x00, esub := 0x00 } := by
  have hactive : ¬ s.sra = true := by simp [ha]
  simp only [exec, execSrEnd, if_neg hactive]
  rfl

/-- Settles O40: the two outcomes of SR_END. -/
theorem srEndClearsTheSession : Obligations.SrEndClearsTheSession := by
  unfold Obligations.SrEndClearsTheSession
  exact fun _ => ⟨exec_srEnd_active, exec_srEnd_inactive⟩

/-- Settles O41: each command without a session, and the decoders without a packet. -/
theorem useWithoutASessionIsReported : Obligations.UseWithoutASessionIsReported := by
  unfold Obligations.UseWithoutASessionIsReported
  intro s ha hp
  refine ⟨exec_srXfer_inactive ha, ⟨s.srCur, id, ?extract⟩, exec_srNextByte_exhausted (.inl hp),
    exec_srNextWord_exhausted (.inl hp), exec_srEnd_inactive ha⟩
  rw [exec_srExtract_inactive ha, hp]

end Sys2Proof.Machine
end

section
/-! The life of the session, and what the session commands that store leave unchanged. -/

namespace Sys2Proof.Machine

variable {i : Instr} {s t : State}

/-! ### The session and the other instructions -/

/-- The flags, registers and buffers of the session (R190). -/
def State.session (s : State) : Bool × Bool × Byte × Byte × Half × Half × Byte × Memory × Memory :=
  (s.sra, s.pv, s.srN, s.srL, s.srSize, s.srRawlen, s.srCur, s.srbuf, s.pkt)

theorem sessionUntouched_of_eq (h : t.session = s.session := by rfl) : SessionUntouched s t := by
  simpa only [SessionUntouched, State.session, Prod.mk.injEq] using h

theorem encode_sessionUntouched (s : State) : After (SessionUntouched s) (exec .encode s) := by
  rcases exec_encode_cases s with ⟨sub, e⟩ | ⟨a, c, p, k, -, e⟩ <;> rw [e] <;> exact .next sessionUntouched_of_eq

theorem decode_sessionUntouched (s : State) : After (SessionUntouched s) (exec .decode s) := by
  change After _ (.next (s.decodeReceived s.aAddr s.aLen.toNat s.aInstr))
  obtain ⟨m, st, addr, err, sub, v, w, -, e⟩ := decodeEffect_stores (s.rxbuf.read s.drawCount 0 s.rxlen.toNat)
    s.aAddr s.aLen.toNat s.aInstr s
  rw [decodeReceived_eq, e]
  exact .next sessionUntouched_of_eq

theorem xact_sessionUntouched (s : State) : After (SessionUntouched s) (exec .xact s) := by
  rcases exec_xact_cases s with e | ⟨op, ho, -, e⟩ <;> rw [e]
  · exact .next sessionUntouched_of_eq
  · exact .next (transactionFrame_transact ho s).session

theorem h2b_sessionUntouched (s : State) : After (SessionUntouched s) (exec .h2b s) := by
  rcases exec_h2b_cases s with e | ⟨x, y, e⟩ <;> rw [e] <;> exact .next sessionUntouched_of_eq

/-- The commands of this family, and the wire instruction that is SR_XFER's exchange. -/
def sessionInstrs : List Instr := [.srBegin, .srXfer, .syncread, .srExtract, .srNextByte, .srNextWord, .srEnd]

/-- No instruction of another family changes the session (R190). -/
theorem exec_sessionUntouched (hi : i ∉ sessionInstrs) (s : State) : After (SessionUntouched s) (exec i s) := by
  cases i with
  | ping | read | write | bwrite | btrigger | syncwrite =>
    exact .next (transactionFrame_transact (by decide) s).session
  | xact => exact xact_sessionUntouched s
  | encode => exact encode_sessionUntouched s
  | decode => exact decode_sessionUntouched s
  | h2b => exact h2b_sessionUntouched s
  | nop | cksum | send | flushRx | recv | smDec => exact .next sessionUntouched_of_eq
  | b2h =>
    dsimp only [exec, execB2h]
    split <;> exact .next sessionUntouched_of_eq
  | smEnc =>
    dsimp only [exec, execSmEnc]
    split <;> exact .next sessionUntouched_of_eq
  | srBegin | srXfer | syncread | srExtract | srNextByte | srNextWord | srEnd => exact absurd (by decide) hi

/-! ### The session's own commands -/

/-- SR_BEGIN without a session starts one exactly when its three checks pass (R191). -/
theorem srBegin_starts_iff (ha : s.sra = false) : After (fun t => t.sra = true ↔
    s.aCnt ≠ 0 ∧ s.aLen.toNat ≤ 249 ∧ s.aCnt.toNat * (s.aLen.toNat + 6) ≤ s.srBufCap.toNat) (exec .srBegin s) := by
  have hidle : ¬ s.sra = true := by simp [ha]
  obtain ⟨hcount, hlong, halloc⟩ := exec_srBegin_inactive_fails ha
  by_cases h0 : s.aCnt = 0
  · rw [hcount h0]
    exact .next (iff_of_false hidle fun h => h.1 h0)
  by_cases hl : 249 < s.aLen.toNat
  · rw [hlong h0 hl]
    exact .next (iff_of_false hidle fun h => absurd h.2.1 (Nat.not_le.2 hl))
  rw [Nat.not_lt] at hl
  by_cases hcap : s.srBufCap.toNat < s.aCnt.toNat * (s.aLen.toNat + 6)
  · rw [halloc h0 hl hcap]
    exact .next (iff_of_false hidle fun h => absurd h.2.2 (Nat.not_le.2 hcap))
  · rw [Nat.not_lt] at hcap
    rw [exec_srBegin_ok ha h0 hl hcap]
    exact .next (iff_of_true rfl ⟨h0, hl, hcap⟩)

theorem syncReadTransfer_sra (s : State) : s.syncReadTransfer.sra = s.sra := by
  rcases syncReadTransfer_cases s with ⟨c, -, e⟩ | ⟨-, -, ids, arrived, k, -, e⟩ <;> rw [e]

/-- Only SR_BEGIN and SR_END start or end a session. -/
theorem exec_keeps_sra (hi : i = .srXfer ∨ i = .syncread ∨ i = .srExtract ∨ i = .srNextByte ∨ i = .srNextWord)
    (s : State) : After (fun t => t.sra = s.sra) (exec i s) := by
  rcases hi with rfl | rfl | rfl | rfl | rfl
  · exact .next (syncReadTransfer_sra s)
  · exact .next (syncReadTransfer_sra s)
  · rcases exec_srExtract_cases s with ⟨-, e⟩ | ⟨-, k, res, e⟩ <;> rw [e]
    exacts [.next rfl, .next (extracted_keeps_session k res).1]
  · dsimp only [exec, execSrNextByte]
    split <;> exact .next rfl
  · dsimp only [exec, execSrNextWord]
    split <;> exact .next rfl

/-- Without a session SR_XFER, SyncRead and SR_EXTRACT report NOT_ACTIVE (R200). -/
theorem exec_reports_notActive (ha : s.sra = false) (hi : i = .srXfer ∨ i = .syncread ∨ i = .srExtract) :
    After (fun t => t.err = 0x06 ∧ t.esub = 0x01) (exec i s) := by
  have hxfer : After (fun t => t.err = 0x06 ∧ t.esub = 0x01) (exec .srXfer s) := by
    rw [exec_srXfer_inactive ha]
    exact .next ⟨rfl, rfl⟩
  rcases hi with rfl | rfl | rfl
  · exact hxfer
  · exact hxfer
  · rw [exec_srExtract_inactive ha]
    exact .next ⟨rfl, rfl⟩

/-- Without a packet the decoders report EXHAUSTED (R197, R198). -/
theorem exec_reports_exhausted (hp : s.pv = false) (hi : i = .srNextByte ∨ i = .srNextWord) :
    After (fun t => t.err = 0x07) (exec i s) := by
  rcases hi with rfl | rfl
  · rw [exec_srNextByte_exhausted (.inl hp)]
    exact .next rfl
  · rw [exec_srNextWord_exhausted (.inl hp)]
    exact .next rfl

/-- Settles O42: the rows of R190, each a law of its command; without a session there is no packet (R55). -/
theorem sessionLifecycle : Obligations.SessionLifecycle := by
  unfold Obligations.SessionLifecycle
  intro i s t hinv ht
  refine ⟨fun hi => exec_sessionUntouched hi s t ht, fun ha => ⟨?begin, ?notActive, ?exhausted, ?endIdle⟩,
    fun ha => ⟨?alreadyActive, fun hi => (exec_keeps_sra hi s t ht).trans ha, ?endActive⟩⟩
  case begin =>
    rintro rfl
    exact srBegin_starts_iff ha t ht
  case notActive =>
    exact fun hi => ⟨(exec_keeps_sra (by tauto) s t ht).trans ha, exec_reports_notActive ha hi t ht⟩
  case exhausted =>
    obtain ⟨-, -, -, -, -, hp⟩ := hinv.1 ha
    exact fun hi => ⟨(exec_keeps_sra (by tauto) s t ht).trans ha, exec_reports_exhausted hp hi t ht⟩
  case endIdle =>
    rintro rfl
    rw [exec_srEnd_inactive ha, Host.Outcome.next.injEq] at ht
    subst ht
    exact ⟨ha, rfl, sessionUntouched_of_eq⟩
  case alreadyActive =>
    rintro rfl
    rw [exec_srBegin_active ha, Host.Outcome.next.injEq] at ht
    subst ht
    exact ⟨rfl, rfl, sessionUntouched_of_eq⟩
  case endActive =>
    rintro rfl
    rw [exec_srEnd_active ha, Host.Outcome.next.injEq] at ht
    subst ht
    rfl

/-! ### Frames -/

/-- SR_XFER stores in the frame's part of `TXBUF` and the received part of `SRBUF`, or transmits and stores nothing. -/
theorem syncReadTransfer_frame (s : State) : After (fun t =>
    (∀ b j, (b = .txbuf → t.txlen.toNat ≤ j ∨ t.txout = s.txout) →
      (b = .srbuf → t.srRawlen.toNat ≤ j ∨ t.txout = s.txout) → (t.buf b).load j = (s.buf b).load j) ∧
    OutsideKept s t ∧ RegsKept [.result, .err, .esub, .txlen, .srRawlen] s t) (.next s.syncReadTransfer) := by
  rcases syncReadTransfer_cases s with ⟨c, -, e⟩ | ⟨-, hcount, ids, arrived, k, hids, e⟩ <;> rw [e]
  · exact .next ⟨fun b j _ _ => by cases b <;> rfl, ⟨rfl, rfl, rfl⟩,
      fun r => by cases r <;> simp [State.reg, State.flags]⟩
  · refine .next ⟨fun b j htx hsr => ?bytes, ⟨rfl, rfl, rfl⟩, fun r => by cases r <;> simp [State.reg, State.flags]⟩
    cases b
    case txbuf =>
      have hj := (htx rfl).resolve_right (txout_append_wireFrame_ne _ _ _ _)
      exact load_write_wireFrame_of_ge _ (by simp [hids.1]; omega) (by simpa [hids.1] using hj)
    case srbuf =>
      have hj := (hsr rfl).resolve_right (txout_append_wireFrame_ne _ _ _ _)
      have hsize := s.srSize.isLt
      have hlen : (BitVec.ofNat 16 (arrived.take s.srSize.toNat).length).toNat =
          (arrived.take s.srSize.toNat).length := by
        rw [BitVec.toNat_ofNat, Nat.mod_eq_of_lt ((List.length_take_le _ _).trans_lt hsize)]
      exact Memory.load_write_zero_ge _ (hlen ▸ hj)
    all_goals rfl

theorem extracted_buf {b : Buf} (hb : b ≠ .pkt) (k : Nat) (res : ScanResult) :
    (s.extracted k res).buf b = s.buf b := by
  cases b
  case pkt => exact absurd rfl hb
  all_goals cases res <;> rfl

theorem srExtract_frame (s : State) : After (fun t => (∀ b j, b ≠ .pkt → (t.buf b).load j = (s.buf b).load j) ∧
    OutsideKept s t ∧ StreamsKept s t ∧ t.sra = s.sra ∧
    RegsKept [.result, .err, .esub, .status, .flags, .rspAddr, .srCur] s t) (exec .srExtract s) := by
  rcases exec_srExtract_cases s with ⟨-, e⟩ | ⟨-, k, res, e⟩ <;> rw [e]
  · refine .next ⟨fun b j hb => ?bytes, ⟨rfl, rfl, rfl⟩, ⟨rfl, rfl, rfl⟩, rfl, fun r => by cases r <;> simp [State.reg]⟩
    cases b
    case pkt => exact absurd rfl hb
    all_goals rfl
  · refine .next ⟨fun b j hb => congrArg (Memory.load · j) (extracted_buf hb k res), ?_⟩
    cases res <;> exact ⟨⟨rfl, rfl, rfl⟩, ⟨rfl, rfl, rfl⟩, rfl,
      fun r => by cases r <;> simp [State.reg, State.extracted, State.extractFailed]⟩

theorem srEnd_frame (s : State) : After (fun t =>
    (∀ b j, b ≠ .pkt → b ≠ .srbuf → (t.buf b).load j = (s.buf b).load j) ∧ OutsideKept s t ∧ StreamsKept s t ∧
    t.sv = s.sv ∧ RegsKept [.result, .err, .esub, .flags, .srN, .srL, .srSize, .srRawlen, .srCur] s t)
    (exec .srEnd s) := by
  rcases Bool.eq_false_or_eq_true s.sra with ha | ha
  · rw [exec_srEnd_active ha]
    refine .next ⟨fun b j hpkt hraw => ?bytes, ⟨rfl, rfl, rfl⟩, ⟨rfl, rfl, rfl⟩, rfl,
      fun r => by cases r <;> simp [State.reg]⟩
    cases b
    case pkt => exact absurd rfl hpkt
    case srbuf => exact absurd rfl hraw
    all_goals rfl
  · rw [exec_srEnd_inactive ha]
    exact .next ⟨fun b j _ _ => by cases b <;> rfl, ⟨rfl, rfl, rfl⟩, ⟨rfl, rfl, rfl⟩, rfl,
      fun r => by cases r <;> simp [State.reg, State.flags]⟩

/-- Settles O52: the frame of each of the three commands. -/
theorem frameOfSessionCommands : Obligations.FrameOfSessionCommands := by
  unfold Obligations.FrameOfSessionCommands
  refine ⟨?_, srExtract_frame, srEnd_frame⟩
  rintro i s t (rfl | rfl) ht
  · exact syncReadTransfer_frame s t ht
  · exact syncReadTransfer_frame s t ht

end Sys2Proof.Machine
end

section
/-! The endianness adapter and NOP: what the byte pair of a word is, and the exact next state of H2B, B2H and NOP. -/

namespace Sys2Proof.Machine

variable {s t : State}

/-! ### The byte pair of a word -/

/-- R230 over the two halves of the word: the high half comes first when `e` is set. -/
theorem wordToPair_eq (w : Half) (e : Bool) : wordToPair w e =
    if e then (w.extractLsb' 8 8, w.extractLsb' 0 8) else (w.extractLsb' 0 8, w.extractLsb' 8 8) := by
  obtain ⟨hlow, hhigh⟩ := low_high_eq_extract w
  simp only [wordToPair, hlow, hhigh]

theorem toNat_append_bytes (x y : Byte) : (x ++ y).toNat = x.toNat * 256 + y.toNat := by
  rw [BitVec.toNat_append, ← Nat.shiftLeft_add_eq_or_of_lt y.isLt, Nat.shiftLeft_eq]

/-- R230 as concatenation: the byte at the lower index is the high half when `e` is set. -/
theorem pairToWord_eq (x y : Byte) (e : Bool) : pairToWord x y e = if e then x ++ y else y ++ x := by
  have happend (a b : Byte) : BitVec.ofNat 16 (a.toNat * 256 + b.toNat) = a ++ b := by
    rw [← toNat_append_bytes, BitVec.ofNat_toNat, BitVec.setWidth_eq]
  rw [pairToWord, Nat.add_comm x.toNat, happend, happend]

theorem pairToWord_wordToPair (w : Half) (e : Bool) : pairToWord (wordToPair w e).1 (wordToPair w e).2 e = w := by
  have hhalves : w.extractLsb' 8 8 ++ w.extractLsb' 0 8 = w := by
    rw [BitVec.extractLsb'_append_extractLsb'_eq_extractLsb' (by omega), BitVec.extractLsb'_eq_self]
  cases e <;> simpa [wordToPair_eq, pairToWord_eq] using hhalves

theorem wordToPair_swap (w : Half) : wordToPair w false = ((wordToPair w true).2, (wordToPair w true).1) := rfl

/-! ### H2B and B2H -/

/-- Only the last index of `HBUF` has no pair. -/
theorem index_fits (hi : s.aIdx ≠ 255) : ¬ 254 < s.aIdx.toNat := fun h =>
  hi (BitVec.eq_of_toNat_eq (by have := s.aIdx.isLt; simp; omega))

theorem exec_h2b_badIndex (hi : s.aIdx = 255) :
    exec .h2b s = .next { s with result := 0, err := 0x04, esub := 0x04 } :=
  if_pos (by simp [hi])

theorem exec_h2b_ok (hi : s.aIdx ≠ 255) : exec .h2b s = .next { s with
    hbuf := s.hbuf.write s.aIdx.toNat [(wordToPair s.aWord s.endBit).1, (wordToPair s.aWord s.endBit).2],
    result := 2, err := 0x00, esub := 0x00 } :=
  if_neg (index_fits hi)

theorem exec_b2h_badIndex (hi : s.aIdx = 255) :
    exec .b2h s = .next { s with result := 0, err := 0x04, esub := 0x04 } :=
  if_pos (by simp [hi])

theorem exec_b2h_ok (hi : s.aIdx ≠ 255) : ∃ x y, s.hbuf.Reads s.aIdx.toNat 2 [x, y] ∧
    exec .b2h s = .next { s with
      result := (pairToWord x y s.endBit).setWidth 32, err := 0x00, esub := 0x00, drawCount := s.drawCount + 2 } :=
  ⟨_, _, s.hbuf.reads_read s.drawCount s.aIdx.toNat 2, if_neg (index_fits hi)⟩

/-- A pair that has been written has one reading. -/
theorem Memory.reads_write_pair {m : Memory} {i : Nat} {x y a b : Byte} (h : (m.write i [x, y]).Reads i 2 [a, b]) :
    a = x ∧ b = y := by
  obtain ⟨-, hspecified⟩ := h
  have hx := hspecified 0 x (by omega) (by simp [Memory.load_write])
  have hy := hspecified 1 y (by omega) (by simp [Memory.load_write])
  exact ⟨by simpa using hx, by simpa using hy⟩

/-- H2B and then B2H at the same index and in the same byte order give the word back (R237). -/
theorem b2h_after_h2b (hi : s.aIdx ≠ 255) (ht : exec .h2b s = .next t) :
    ∃ u, exec .b2h t = .next u ∧ u.err = 0x00 ∧ u.result = s.aWord.setWidth 32 := by
  rw [exec_h2b_ok hi, Host.Outcome.next.injEq] at ht
  obtain ⟨x, y, hreads, e⟩ := exec_b2h_ok (s := t) (ht ▸ hi)
  subst ht
  obtain ⟨rfl, rfl⟩ := Memory.reads_write_pair hreads
  exact ⟨_, e, rfl, congrArg (BitVec.setWidth 32) (pairToWord_wordToPair s.aWord s.endBit)⟩

/-- Settles O43: the two outcomes of H2B. -/
theorem h2bStoresThePair : Obligations.H2bStoresThePair := by
  unfold Obligations.H2bStoresThePair
  refine fun s => ⟨exec_h2b_badIndex, fun hi => ?_⟩
  rw [exec_h2b_ok hi, wordToPair_eq, State.endBit]
  cases s.ctrl.getLsbD 0 <;> rfl

/-- Settles O44: the two outcomes of B2H. -/
theorem b2hReadsThePair : Obligations.B2hReadsThePair := by
  unfold Obligations.B2hReadsThePair
  refine fun s => ⟨exec_b2h_badIndex, fun hi => ?_⟩
  obtain ⟨x, y, hreads, e⟩ := exec_b2h_ok hi
  refine ⟨x, y, s.drawCount + 2, hreads, e.trans ?_⟩
  rw [pairToWord_eq, State.endBit, apply_ite (BitVec.setWidth 32)]

/-- Settles O48: NOP is the success effect alone. -/
theorem nopOnlyClearsTheError : Obligations.NopOnlyClearsTheError := by
  unfold Obligations.NopOnlyClearsTheError
  exact fun _ => rfl

end Sys2Proof.Machine
end

section
/-! Sign-magnitude: the cases of the encoder, that it and the decoder undo each other, and SM_DEC and SM_ENC. -/

namespace Sys2Proof.Machine

variable {s : State} {v : Int} {n : Nat} {w : Half}

/-! ### The cases of the encoder (R235) -/

theorem smEncode_unsigned (h0 : 0 ≤ v) (hv : v ≤ 0xFFFF) (n : Nat) :
    smEncode v n false = some (BitVec.ofNat 16 v.toNat) :=
  (if_pos rfl).trans (if_pos ⟨h0, hv⟩)

theorem smEncode_unsigned_none (hv : v < 0 ∨ 0xFFFF < v) (n : Nat) : smEncode v n false = none :=
  (if_pos rfl).trans (if_neg (by omega))

theorem smEncode_signed_none (h : 0xFFFF < v.natAbs ∨ v.natAbs.testBit n = true) : smEncode v n true = none :=
  if_pos h

/-- A representable value is its magnitude, with the sign bit set where it is negative. -/
theorem smEncode_signed (hn : n < 16) (hm : v.natAbs ≤ 0xFFFF) (hb : v.natAbs.testBit n = false) :
    smEncode v n true = some (BitVec.ofNat 16 (if v < 0 then v.natAbs ||| 1 <<< n else v.natAbs)) := by
  have hrep : ¬ (0xFFFF < v.natAbs ∨ v.natAbs.testBit n = true) := by simp [hb]; omega
  refine (if_neg hrep).trans ?_
  rw [(add_bit_eq_or hm hn hb).1]
  split <;> rfl

/-- What the encoder answers fits the word. -/
theorem or_bit_lt (hn : n < 16) (hm : v.natAbs ≤ 0xFFFF) (hb : v.natAbs.testBit n = false) :
    (if v < 0 then v.natAbs ||| 1 <<< n else v.natAbs) < 2 ^ 16 := by
  split
  · exact (add_bit_eq_or hm hn hb).2
  · omega

/-! ### The encoder and the decoder undo each other (R237) -/

theorem smDecode_signed (hn : n < 16) : smDecode w n true =
    if w.getLsbD n then -((w &&& ~~~ (1#16 <<< n)).toNat : Int) else (w.toNat : Int) := by
  rw [smDecode_eq w hn, if_neg (by decide)]
  split
  · rfl
  next h => rw [clear_of_not_set (by simpa using h)]

theorem smDecode_smEncode_unsigned (h : smEncode v n false = some w) : smDecode w n false = v := by
  rcases Classical.em (0 ≤ v ∧ v ≤ 0xFFFF) with ⟨h0, hv⟩ | hout
  · rw [smEncode_unsigned h0 hv, Option.some.injEq] at h
    subst h
    change ((BitVec.ofNat 16 v.toNat).toNat : Int) = v
    rw [BitVec.toNat_ofNat]
    omega
  · rw [smEncode_unsigned_none (by omega)] at h
    cases h

theorem smDecode_smEncode_signed (hn : n < 16) (h : smEncode v n true = some w) : smDecode w n true = v := by
  rcases Classical.em (0xFFFF < v.natAbs ∨ v.natAbs.testBit n = true) with hout | hrep
  · rw [smEncode_signed_none hout] at h
    cases h
  have hm : v.natAbs ≤ 0xFFFF := by omega
  have hb : v.natAbs.testBit n = false := by simpa using fun hb => hrep (.inr hb)
  rw [smEncode_signed hn hm hb, Option.some.injEq] at h
  have hw := congrArg BitVec.toNat h
  rw [BitVec.toNat_ofNat, Nat.mod_eq_of_lt (or_bit_lt hn hm hb)] at hw
  by_cases hneg : v < 0
  · rw [if_pos hneg] at hw
    have hset : w.getLsbD n = true := by
      rw [← BitVec.testBit_toNat, ← hw]
      simp
    have hmag := toNat_eq_bit_add_clear hn hset
    rw [← hw, ← (add_bit_eq_or hm hn hb).1] at hmag
    rw [smDecode_signed hn, if_pos hset]
    omega
  · rw [if_neg hneg] at hw
    have hclear : ¬ w.getLsbD n = true := by simp [← BitVec.testBit_toNat, ← hw, hb]
    rw [smDecode_signed hn, if_neg hclear]
    omega

theorem smEncode_smDecode_unsigned (w : Half) (n : Nat) : smEncode (smDecode w n false) n false = some w := by
  have hlt := w.isLt
  change smEncode (w.toNat : Int) n false = some w
  rw [smEncode_unsigned (by omega) (by omega), Int.toNat_natCast, BitVec.ofNat_toNat, BitVec.setWidth_eq]

theorem testBit_and_not_bit (w : Half) (n : Nat) : (w &&& ~~~ (1#16 <<< n)).toNat.testBit n = false := by
  rw [BitVec.testBit_toNat]
  by_cases hn : n < 16 <;> simp [hn]

/-- A word with the sign bit set is encoded again as itself, but for the negative zero. -/
theorem smEncode_smDecode_set (hn : n < 16) (hset : w.getLsbD n = true) :
    smEncode (smDecode w n true) n true = if w = 1#16 <<< n then some 0 else some w := by
  have hsum := toNat_eq_bit_add_clear hn hset
  have hbit := testBit_and_not_bit w n
  have hzero : w = 1#16 <<< n ↔ (w &&& ~~~ (1#16 <<< n)).toNat = 0 := by
    rw [← BitVec.toNat_inj, toNat_bit hn]
    omega
  rw [smDecode_signed hn, if_pos hset]
  generalize (w &&& ~~~ (1#16 <<< n)).toNat = m at hsum hbit hzero
  have hm : m ≤ 0xFFFF := Nat.le_of_lt_succ ((Nat.le_add_left m _).trans_lt (hsum ▸ w.isLt))
  rw [smEncode_signed hn (by simpa using hm) (by simpa using hbit), Int.natAbs_neg, Int.natAbs_natCast,
    ← (add_bit_eq_or hm hn hbit).1, Nat.add_comm m, ← hsum, BitVec.ofNat_eq_ofNat]
  by_cases hm0 : m = 0
  · rw [if_pos (hzero.2 hm0), if_neg (by omega), hm0]
  · rw [if_neg (hm0 ∘ hzero.1), if_pos (by omega), BitVec.ofNat_toNat, BitVec.setWidth_eq]

theorem smEncode_smDecode_clear (hn : n < 16) (hclear : w.getLsbD n = false) :
    smEncode (smDecode w n true) n true = some w := by
  have hlt := w.isLt
  have hb : w.toNat.testBit n = false := by rw [BitVec.testBit_toNat, hclear]
  rw [smDecode_signed hn, if_neg (by simp [hclear]),
    smEncode_signed hn (by simpa using by omega) (by simpa using hb), if_neg (by omega), Int.natAbs_natCast,
    BitVec.ofNat_toNat, BitVec.setWidth_eq]

theorem smEncode_smDecode (w : Half) (hn : n < 16) (se : Bool) :
    smEncode (smDecode w n se) n se = if se = true ∧ w = 1#16 <<< n then some 0 else some w := by
  cases se with
  | false => simp [smEncode_smDecode_unsigned]
  | true =>
    cases hbit : w.getLsbD n with
    | true => simpa using smEncode_smDecode_set hn hbit
    | false =>
      have hne : w ≠ 1#16 <<< n := by
        rintro rfl
        simp [hn] at hbit
      simpa [hne] using smEncode_smDecode_clear hn hbit

/-- Settles O47: the laws of the byte pair, and of the two sign-magnitude functions. -/
theorem adapterLaws : Obligations.AdapterLaws := by
  unfold Obligations.AdapterLaws
  refine ⟨pairToWord_wordToPair, fun _ _ => b2h_after_h2b, wordToPair_swap, fun v n se w hn h => ?_,
    fun w n se hn => smEncode_smDecode w (Nat.lt_succ_of_le hn) se⟩
  cases se with
  | false => exact smDecode_smEncode_unsigned h
  | true => exact smDecode_smEncode_signed (Nat.lt_succ_of_le hn) h

/-! ### SM_DEC and SM_ENC -/

/-- Settles O45: the decoder in the words of R233. -/
theorem smDecDecodesSignMagnitude : Obligations.SmDecDecodesSignMagnitude := by
  unfold Obligations.SmDecDecodesSignMagnitude
  intro s
  rw [← State.signBit_eq_extract, ← smDecode_eq s.aWord s.signBit_lt]
  rfl

theorem exec_smEnc_of_none (h : smEncode s.aVal.toInt s.signBit s.signEnable = none) :
    exec .smEnc s = .next { s with result := 0, err := 0x04, esub := 0x05 } := by
  simp only [exec, execSmEnc, State.signedOperand, h]
  rfl

/-- SM_ENC of a representable value: the word zero-extended, given as the number it holds. -/
theorem exec_smEnc_of_some {m : Nat} (h : smEncode s.aVal.toInt s.signBit s.signEnable = some (BitVec.ofNat 16 m))
    (hm : m < 2 ^ 16) :
    exec .smEnc s = .next { s with result := BitVec.ofNat 32 m, err := 0x00, esub := 0x00 } := by
  simp only [exec, execSmEnc, State.signedOperand, h, BitVec.setWidth_ofNat_of_le_of_lt (by decide : 16 ≤ 32) hm]
  rfl

/-- Settles O46: the four cases of the encoder. -/
theorem smEncEncodesSignMagnitude : Obligations.SmEncEncodesSignMagnitude := by
  unfold Obligations.SmEncEncodesSignMagnitude
  intro s
  rw [← State.signBit_eq_extract]
  refine ⟨fun hse h0 hv => ?unsigned, fun hse hv => exec_smEnc_of_none ?unsignedNone,
    fun hse h => exec_smEnc_of_none ?signedNone, fun hse hm hb => exec_smEnc_of_some ?signed ?fits⟩
  case unsigned =>
    have e := exec_smEnc_of_some ((congrArg _ hse).trans (smEncode_unsigned h0 hv _)) (by omega)
    rw [e, ← BitVec.ofInt_natCast, Int.toNat_of_nonneg h0]
  case unsignedNone => exact (congrArg _ hse).trans (smEncode_unsigned_none hv _)
  case signedNone => exact (congrArg _ hse).trans (smEncode_signed_none h)
  case signed => exact (congrArg _ hse).trans (smEncode_signed s.signBit_lt hm hb)
  case fits => exact or_bit_lt s.signBit_lt hm hb

end Sys2Proof.Machine
end

section
/-! What NOP, CKSUM, B2H, SM_DEC, SM_ENC, SEND, FLUSH_RX, the sequential decoders and SR_BEGIN leave unchanged. -/

namespace Sys2Proof.Machine

variable {i : Instr} {s t : State}

/-- What none of these commands writes: the buffers, what lies outside the block, and `FLAGS.SV`. -/
def State.unstored (s : State) : (Buf → Memory) × Half × List Word × List Input × List (List Byte) × Bool :=
  (s.buf, s.srBufCap, s.hostReads, s.inputs, s.draws, s.sv)

/-- The frame of one of these commands, with the registers it may write. -/
def StoresNothing (i : Instr) (except : List Reg) (s t : State) : Prop :=
  BuffersKept s t ∧ OutsideKept s t ∧ t.draws = s.draws ∧ t.sv = s.sv ∧
  (i ≠ .send → t.txout = s.txout) ∧ (i ≠ .flushRx → t.rxq = s.rxq) ∧
  (i ≠ .srBegin → t.sra = s.sra ∧ t.pv = s.pv) ∧ RegsKept except s t

theorem storesNothing_of {except : List Reg} (htx : i ≠ .send → t.txout = s.txout)
    (hrx : i ≠ .flushRx → t.rxq = s.rxq) (hsession : i ≠ .srBegin → t.sra = s.sra ∧ t.pv = s.pv)
    (hregs : RegsKept except s t) (hrest : t.unstored = s.unstored := by rfl) : StoresNothing i except s t := by
  simp only [State.unstored, Prod.mk.injEq] at hrest
  obtain ⟨hbuf, hcap, hreads, hinputs, hdraws, hsv⟩ := hrest
  exact ⟨fun b j => by rw [hbuf], ⟨hcap, hreads, hinputs⟩, hdraws, hsv, htx, hrx, hsession, hregs⟩

/-- The commands whose only effect is an answer: `RESULT`, the error, and draws spent on unspecified bytes. -/
theorem storesNothing_answer (i : Instr) (s : State) (v : Word) (e sub : Byte) (k : Nat) :
    StoresNothing i [.result, .err, .esub] s { s with result := v, err := e, esub := sub, drawCount := k } :=
  storesNothing_of (fun _ => rfl) (fun _ => rfl) (fun _ => ⟨rfl, rfl⟩)
    fun r => by cases r <;> simp [State.reg, State.flags]

/-- A sequential decoder answers and moves its cursor. -/
theorem storesNothing_cursor (i : Instr) (s : State) (v : Word) (e sub c : Byte) (k : Nat) :
    StoresNothing i [.result, .err, .esub, .srCur] s
      { s with result := v, err := e, esub := sub, srCur := c, drawCount := k } :=
  storesNothing_of (fun _ => rfl) (fun _ => rfl) (fun _ => ⟨rfl, rfl⟩)
    fun r => by cases r <;> simp [State.reg, State.flags]

theorem nop_storesNothing (s : State) : After (StoresNothing .nop [.err, .esub] s) (exec .nop s) :=
  .next (storesNothing_of (fun _ => rfl) (fun _ => rfl) (fun _ => ⟨rfl, rfl⟩)
    fun r => by cases r <;> simp [State.reg, State.flags])

theorem send_storesNothing (s : State) : After (StoresNothing .send [.result, .err, .esub] s) (exec .send s) := by
  obtain ⟨f, k, -, e⟩ := sendTransmitsTheFrame s
  rw [e]
  exact .next (storesNothing_of (fun h => absurd rfl h) (fun _ => rfl) (fun _ => ⟨rfl, rfl⟩)
    fun r => by cases r <;> simp [State.reg, State.flags])

theorem flushRx_storesNothing (s : State) :
    After (StoresNothing .flushRx [.result, .err, .esub] s) (exec .flushRx s) :=
  .next (storesNothing_of (fun _ => rfl) (fun h => absurd rfl h) (fun _ => ⟨rfl, rfl⟩)
    fun r => by cases r <;> simp [State.reg, State.flags])

theorem b2h_storesNothing (s : State) : After (StoresNothing .b2h [.result, .err, .esub] s) (exec .b2h s) := by
  by_cases hi : s.aIdx = 255
  · rw [exec_b2h_badIndex hi]
    exact .next (storesNothing_answer ..)
  · obtain ⟨x, y, -, e⟩ := exec_b2h_ok hi
    rw [e]
    exact .next (storesNothing_answer ..)

theorem smEnc_storesNothing (s : State) : After (StoresNothing .smEnc [.result, .err, .esub] s) (exec .smEnc s) := by
  dsimp only [exec, execSmEnc]
  split <;> exact .next (storesNothing_answer ..)

theorem srNextByte_storesNothing (s : State) :
    After (StoresNothing .srNextByte [.result, .err, .esub, .srCur] s) (exec .srNextByte s) := by
  dsimp only [exec, execSrNextByte]
  split <;> exact .next (storesNothing_cursor ..)

theorem srNextWord_storesNothing (s : State) :
    After (StoresNothing .srNextWord [.result, .err, .esub, .srCur] s) (exec .srNextWord s) := by
  dsimp only [exec, execSrNextWord]
  split <;> exact .next (storesNothing_cursor ..)

/-- SR_BEGIN writes the session's registers and flags and no buffer: `SRBUF` and `PKT` keep their bytes. -/
theorem srBegin_storesNothing (s : State) :
    After (StoresNothing .srBegin [.result, .err, .esub, .flags, .srN, .srL, .srSize, .srRawlen, .srCur] s)
      (exec .srBegin s) := by
  dsimp only [exec, execSrBegin]
  split_ifs <;> exact .next (storesNothing_of (fun _ => rfl) (fun _ => rfl) (fun h => absurd rfl h)
    fun r => by cases r <;> simp [State.reg])

/-- Settles O49: the frame of each of the ten commands. -/
theorem frameOfCommandsThatStoreNothing : Obligations.FrameOfCommandsThatStoreNothing := by
  unfold Obligations.FrameOfCommandsThatStoreNothing
  intro i s t hi ht
  cases i with
  | nop => exact nop_storesNothing s t ht
  | cksum | smDec => exact After.next (storesNothing_answer ..) t ht
  | b2h => exact b2h_storesNothing s t ht
  | smEnc => exact smEnc_storesNothing s t ht
  | send => exact send_storesNothing s t ht
  | flushRx => exact flushRx_storesNothing s t ht
  | srNextByte => exact srNextByte_storesNothing s t ht
  | srNextWord => exact srNextWord_storesNothing s t ht
  | srBegin => exact srBegin_storesNothing s t ht
  | ping | read | write | bwrite | btrigger | syncread | syncwrite | encode | decode | recv | xact | srXfer | srExtract
  | srEnd | h2b => exact absurd hi (by decide)

end Sys2Proof.Machine
end

section
/-! The error each instruction reports. The first failing check of a request or a response is one that `mayRaise` lists,
and it leaves `RESULT = 0`, or the sentinel in the sequential decoders. The statement of 60_exceptions.md. -/

namespace Sys2Proof.Machine

variable {i : Instr} {op : WireOp} {s t : State}

/-- How an instruction may end (R250, R251): OK, an error of its own with `RESULT = 0`, or EXHAUSTED with the
sentinel. -/
inductive Reported (i : Instr) (t : State) : Prop
  | ok (herr : t.err = 0x00) (hsub : t.esub = 0x00)
  | failed (e sub : Byte) (hmem : (e, sub) ∈ mayRaise i) (hne : e ≠ 0x07) (herr : t.err = e) (hsub : t.esub = sub)
      (hresult : t.result = 0)
  | exhausted (hmem : (0x07, 0x00) ∈ mayRaise i) (herr : t.err = 0x07) (hsub : t.esub = 0x00)
      (hresult : t.result = 0xFFFFFFFF)

theorem Reported.mono {j : Instr} (h : Reported j t) (hji : mayRaise j ⊆ mayRaise i) : Reported i t := by
  cases h with
  | ok herr hsub => exact .ok herr hsub
  | failed e sub hmem hne herr hsub hresult => exact .failed e sub (hji hmem) hne herr hsub hresult
  | exhausted hmem herr hsub hresult => exact .exhausted (hji hmem) herr hsub hresult

theorem Reported.fail (c : Cause) (hmem : (c.code, c.sub) ∈ mayRaise i) (hne : c.code ≠ 0x07) :
    Reported i (s.fail c) :=
  .failed c.code c.sub hmem hne rfl rfl rfl

theorem Reported.exhaust (hmem : (0x07, 0x00) ∈ mayRaise i) : Reported i s.exhaust := .exhausted hmem rfl rfl rfl

/-- Only the sequential decoders may leave EXHAUSTED (R250). -/
theorem code_ne_exhausted {e : Byte × Byte} (hbyte : i ≠ .srNextByte) (hword : i ≠ .srNextWord) (h : e ∈ mayRaise i) :
    e.1 ≠ 0x07 := by
  obtain ⟨code, sub⟩ := e
  rintro rfl
  cases i with
  | srNextByte => exact hbyte rfl
  | srNextWord => exact hword rfl
  | _ => simp [mayRaise] at h

/-- A report in the words of R250 and R251. -/
theorem Reported.error_and_result (h : Reported i t) :
    ((t.err = 0x00 ∧ t.esub = 0x00) ∨ (t.err, t.esub) ∈ mayRaise i) ∧
    (t.err = 0x07 → t.result = 0xFFFFFFFF) ∧ (t.err ≠ 0x00 → t.err ≠ 0x07 → t.result = 0) := by
  cases h with
  | ok herr hsub => exact ⟨.inl ⟨herr, hsub⟩, fun h => by simp [herr] at h, fun h => absurd herr h⟩
  | failed e sub hmem hne herr hsub hresult =>
    exact ⟨.inr (by rwa [herr, hsub]), fun h => absurd (herr.symm.trans h) hne, fun _ _ => hresult⟩
  | exhausted hmem herr hsub hresult =>
    exact ⟨.inr (by rwa [herr, hsub]), fun _ => hresult, fun _ h => absurd herr h⟩

/-! ### The first failing check is one of the table -/

/-- The code of the first failing check stands in the table beside a check that fails. -/
theorem mem_of_firstFailure {α : Type} {checks : List (Bool × α)} {e : α}
    (h : (checks.find? (fun c => c.1)).map (fun c => c.2) = some e) : (true, e) ∈ checks := by
  obtain ⟨⟨b, e'⟩, hfind, rfl⟩ := Option.map_eq_some_iff.1 h
  obtain rfl : b = true := List.find?_some hfind
  exact List.mem_of_find?_eq_some hfind

/-- A request fails only with the INVALID_PARAM causes of its operation (R124 to R130). -/
theorem requestFailure_mem {sub : Byte} (h : requestFailure op s = some sub) : (0x04, sub) ∈ mayRaise op.instr := by
  have hmem := mem_of_firstFailure h
  cases op with
  | ping | btrigger => cases hmem
  | read | write | bwrite | syncread | syncwrite =>
    simp [WireOp.instr, mayRaise] at hmem ⊢
    tauto

/-- A response fails only with the errors of DECODE (R132). -/
theorem responseFailure_mem {r : List Byte} {a c : Byte} {n : Nat} {e : Byte × Byte}
    (h : responseFailure r a n c = some e) : e ∈ mayRaise .decode :=
  List.mem_map_of_mem (f := Prod.snd) (mem_of_firstFailure h)

/-- A transaction asks for at most 249 data bytes and takes no byte beyond the frame, so its response can be neither
TOO_LONG nor an OVERRUN: the errors left are those of Ping (R251). -/
theorem responseFailure_mem_of_fits {r : List Byte} {a c : Byte} {n : Nat} {e : Byte × Byte} (hn : n ≤ 249)
    (hr : r.length ≤ n + 6) (h : responseFailure r a n c = some e) : e ∈ mayRaise .ping := by
  have hmem := mem_of_firstFailure h
  simp [responseChecks, mayRaise, Nat.not_lt.2 hn, Nat.not_lt.2 hr] at hmem ⊢
  tauto

/-! ### The shared operations -/

theorem reported_decodeReceived (a : Byte) (n : Nat) (c : Byte) : Reported .decode (s.decodeReceived a n c) := by
  rw [decodeReceived_eq]
  rcases decodeEffect_cases (s.rxbuf.read s.drawCount 0 s.rxlen.toNat) a n c s with ⟨-, e⟩ | ⟨cause, hf, e⟩
  · rw [e]
    exact .ok rfl rfl
  · rw [e]
    have hmem := responseFailure_mem hf
    exact .failed _ _ hmem (code_ne_exhausted (by decide) (by decide) hmem) rfl rfl rfl

/-- The operations that a response answers may raise every error of a response (R91, R250). -/
theorem mayRaise_ping_subset {n : Nat} (h : responseLength op s = some n) : mayRaise .ping ⊆ mayRaise op.instr := by
  cases op with
  | ping | read | write | bwrite | btrigger => decide
  | syncread | syncwrite => exact absurd h nofun

theorem reported_transact (ho : op ≠ .syncread) : Reported op.instr (s.transact op) := by
  rcases transact_cases s ho with ⟨sub, hf, e⟩ | ⟨p, k, -, -, ⟨-, e⟩ | ⟨n, arrived, r, hlen, hn, hr, h⟩⟩
  · rw [e]
    exact .failed 0x04 sub (requestFailure_mem hf) (by decide) rfl rfl rfl
  · rw [e]
    exact .ok rfl rfl
  · rcases h with ⟨-, -, e⟩ | ⟨c, hf, e⟩ <;> rw [e]
    · exact .ok rfl rfl
    · have hmem := responseFailure_mem_of_fits hn (hr ▸ List.length_take_le ..) hf
      exact .failed _ _ (mayRaise_ping_subset hlen hmem) (code_ne_exhausted (by decide) (by decide) hmem) rfl rfl rfl

theorem reported_syncReadTransfer : Reported .srXfer s.syncReadTransfer := by
  rcases syncReadTransfer_cases s with ⟨c, hmem, e⟩ | ⟨-, -, ids, arrived, k, -, e⟩
  · rw [e]
    exact .failed _ _ hmem (code_ne_exhausted (by decide) (by decide) hmem) rfl rfl rfl
  · rw [e]
    exact .ok rfl rfl

/-! ### The commands with checks of their own -/

/-- ENCODE builds the requests of all seven operations, so it may raise the INVALID_PARAM of each (R123, R250). -/
theorem mem_mayRaise_encode {sub : Byte} (h : (0x04, sub) ∈ mayRaise op.instr) : (0x04, sub) ∈ mayRaise .encode := by
  have hsub : (mayRaise op.instr).filter (fun e => e.1 == 0x04) ⊆ mayRaise .encode := by cases op <;> decide
  exact hsub (List.mem_filter.2 ⟨h, rfl⟩)

theorem encode_reports : After (Reported .encode) (exec .encode s) := by
  cases hc : WireOp.ofCode? s.aInstr with
  | none =>
    rw [exec_encode_unlisted hc]
    exact .next (.failed 0x04 0x06 (by decide) (by decide) rfl rfl rfl)
  | some op =>
    rw [exec_encode_of_code (code_of_ofCode? hc)]
    cases hf : requestFailure op s with
    | some sub =>
      rw [encodeRequest_error hf]
      exact .next (.failed 0x04 sub (mem_mayRaise_encode (requestFailure_mem hf)) (by decide) rfl rfl rfl)
    | none =>
      obtain ⟨p, -, -, e⟩ := encodeRequest_ok hf
      rw [e]
      exact .next (.ok rfl rfl)

/-- XACT runs the transactions of all operations but SyncRead, and adds only BAD_INSTR (R163, R170). -/
theorem xact_reports : After (Reported .xact) (exec .xact s) := by
  rcases exec_xact_cases s with e | ⟨op, ho, -, e⟩ <;> rw [e]
  · exact .next (.failed 0x04 0x06 (by decide) (by decide) rfl rfl rfl)
  · have hsub : mayRaise op.instr ⊆ mayRaise .xact := by
      cases op with
      | syncread => exact absurd rfl ho
      | ping | read | write | bwrite | btrigger | syncwrite => decide
    exact .next ((reported_transact ho).mono hsub)

theorem srBegin_reports : After (Reported .srBegin) (exec .srBegin s) := by
  dsimp only [exec, execSrBegin]
  split_ifs
  · exact .next (.fail (.session .alreadyActive) (by decide) (by decide))
  · exact .next (.fail (.invalidParam .badCount) (by decide) (by decide))
  · exact .next (.fail (.invalidParam .tooLong) (by decide) (by decide))
  · exact .next (.fail .alloc (by decide) (by decide))
  · exact .next (.ok rfl rfl)

theorem srExtract_reports : After (Reported .srExtract) (exec .srExtract s) := by
  rcases exec_srExtract_cases s with ⟨-, e⟩ | ⟨-, k, res, e⟩ <;> rw [e]
  · exact .next (.failed 0x06 0x01 (by decide) (by decide) rfl rfl rfl)
  · cases res with
    | found h status data => exact .next (.ok rfl rfl)
    | notFound => exact .next (.failed 0x02 0x06 (by decide) (by decide) rfl rfl rfl)
    | truncated => exact .next (.failed 0x02 0x07 (by decide) (by decide) rfl rfl rfl)
    | checksum => exact .next (.failed 0x02 0x04 (by decide) (by decide) rfl rfl rfl)

theorem srNextByte_reports : After (Reported .srNextByte) (exec .srNextByte s) := by
  dsimp only [exec, execSrNextByte]
  split_ifs
  · exact .next (.exhaust (by decide))
  · exact .next (.ok rfl rfl)

theorem srNextWord_reports : After (Reported .srNextWord) (exec .srNextWord s) := by
  dsimp only [exec, execSrNextWord]
  split_ifs
  · exact .next (.exhaust (by decide))
  · exact .next (.ok rfl rfl)

theorem h2b_reports : After (Reported .h2b) (exec .h2b s) := by
  dsimp only [exec, execH2b]
  split_ifs
  · exact .next (.fail (.invalidParam .badIndex) (by decide) (by decide))
  · exact .next (.ok rfl rfl)

theorem b2h_reports : After (Reported .b2h) (exec .b2h s) := by
  dsimp only [exec, execB2h]
  split_ifs
  · exact .next (.fail (.invalidParam .badIndex) (by decide) (by decide))
  · exact .next (.ok rfl rfl)

theorem smEnc_reports : After (Reported .smEnc) (exec .smEnc s) := by
  dsimp only [exec, execSmEnc]
  split
  · exact .next (.fail (.invalidParam .notRepresentable) (by decide) (by decide))
  · exact .next (.ok rfl rfl)

theorem exec_reports (i : Instr) (s : State) : After (Reported i) (exec i s) := by
  cases i with
  | ping => exact .next (reported_transact (op := .ping) (by decide))
  | read => exact .next (reported_transact (op := .read) (by decide))
  | write => exact .next (reported_transact (op := .write) (by decide))
  | bwrite => exact .next (reported_transact (op := .bwrite) (by decide))
  | btrigger => exact .next (reported_transact (op := .btrigger) (by decide))
  | syncwrite => exact .next (reported_transact (op := .syncwrite) (by decide))
  | syncread => exact .next (reported_syncReadTransfer.mono (List.Subset.refl (mayRaise .srXfer)))
  | srXfer => exact .next reported_syncReadTransfer
  | nop | cksum | send | flushRx | recv | smDec | srEnd => exact .next (.ok rfl rfl)
  | decode => exact .next (reported_decodeReceived ..)
  | encode => exact encode_reports
  | xact => exact xact_reports
  | srBegin => exact srBegin_reports
  | srExtract => exact srExtract_reports
  | srNextByte => exact srNextByte_reports
  | srNextWord => exact srNextWord_reports
  | h2b => exact h2b_reports
  | b2h => exact b2h_reports
  | smEnc => exact smEnc_reports

/-- Settles O56: every instruction ends with a report of R250 and R251. -/
theorem everyInstructionReportsItsError : Obligations.EveryInstructionReportsItsError := by
  unfold Obligations.EveryInstructionReportsItsError
  exact fun i s t ht => (exec_reports i s t ht).error_and_result

end Sys2Proof.Machine
end

section
/-! The state after reset, as the host sees it through the register accessor and the buffers (R280 to R283). -/

namespace Sys2Proof.Machine

theorem reg_reset (r : Reg) : State.reset.reg r = 0 := by
  cases r <;> rfl

theorem buf_reset (b : Buf) : State.reset.buf b = Memory.unspecified := by
  cases b <;> rfl

theorem byteAt_reset (b : Buf) (i : Nat) : State.reset.byteAt b i = none := by
  rw [State.byteAt, buf_reset, Memory.load_unspecified, ite_self]

/-- Settles O57: reset clears every field of every register, and each buffer to one that specifies no byte, so no index
of its valid part has one. -/
theorem resetState : Obligations.ResetState := by
  unfold Obligations.ResetState
  exact ⟨reg_reset, rfl, rfl, byteAt_reset⟩

end Sys2Proof.Machine
end
